-- ==== Sys2Proof/Word.lean ====
section
/-! DEFINITION. The bit patterns of the block (spec/00_scope.md R3, R8, R10): the command word, the 128-bit
vector value, its 8-bit lane, the 64-bit scalar, and the 4-bit register numbers. -/

namespace Sys2Proof

/-- One 32-bit word of the command stream (00_scope.md R8, 30_encoding.md R90). -/
abbrev Word := BitVec 32

/-- A 128-bit vector value (00_scope.md R3). The three value kinds of the source share it (R19). -/
abbrev Vec := BitVec 128

/-- One 8-bit lane of a vector, or one byte of memory (00_scope.md R3, 20_memory.md R60). -/
abbrev Lane := BitVec 8

/-- A 64-bit scalar value, which may be an address (00_scope.md R8). -/
abbrev Scalar := BitVec 64

/-- A vector register number, 0 to 15 (10_state.md R31, 30_encoding.md R94). -/
abbrev VReg := Fin 16

/-- A scalar register number, 0 to 15 (10_state.md R33, 30_encoding.md R94). -/
abbrev XReg := Fin 16

end Sys2Proof
end

