-- ==== Sys2Proof/Syntax.lean ====
section
/-! DEFINITION. The 44 commands (spec/30_encoding.md R96, opcode_table.json), one constructor each, in the table's
order. Operands stand in field order D, A, B, C (R91), then the immediate. A register field names a vector or a scalar
register as the opcode fixes it (R94); every value of a field is a register, so the operand types carry their range.
The six pseudo-instructions of R102 are spellings of these commands. -/

namespace Sys2Proof

/-- One command of the block. -/
inductive Instr where
  /-- `VZERO vd`: all-bits-zero value (40_bitregister128.md R120). -/
  | vzero (d : VReg)
  /-- `VMOV vd, va`: register copy (41_lane_construct_memory.md R152). -/
  | vmov (d a : VReg)
  /-- `VBCAST vd, xa`: broadcast a scalar to every lane (41_lane_construct_memory.md R150). -/
  | vbcast (d : VReg) (a : XReg)
  /-- `VLIT vd, imm128`: vector from a literal array (41_lane_construct_memory.md R151). -/
  | vlit (d : VReg) (imm : BitVec 128)
  /-- `VBOOLS vd, imm16`: boolean lane vector from 16 booleans (43_boolean_select.md R210). -/
  | vbools (d : VReg) (imm : BitVec 16)
  /-- `XLI xd, imm64`: load a 64-bit literal into a scalar register (45_scalar_interface.md R270). -/
  | xli (d : XReg) (imm : BitVec 64)
  /-- `VLD vd, (xa)`: unaligned 16-byte load (40_bitregister128.md R121). -/
  | vld (d : VReg) (a : XReg)
  /-- `VST va, (xb)`: unaligned 16-byte store (40_bitregister128.md R122). -/
  | vst (a : VReg) (b : XReg)
  /-- `VLDA vd, (xa)`: aligned 16-byte load (40_bitregister128.md R123). -/
  | vlda (d : VReg) (a : XReg)
  /-- `VSTA va, (xb)`: aligned 16-byte store (40_bitregister128.md R124). -/
  | vsta (a : VReg) (b : XReg)
  /-- `VLDP vd, xb, (xa)`: partial load of the first n lanes (41_lane_construct_memory.md R154). -/
  | vldp (d : VReg) (a b : XReg)
  /-- `VSTP va, xc, (xb)`: partial store of the first n lanes (41_lane_construct_memory.md R155). -/
  | vstp (a : VReg) (b c : XReg)
  /-- `VAND vd, va, vb`: bitwise AND (40_bitregister128.md R125). -/
  | vand (d a b : VReg)
  /-- `VOR vd, va, vb`: bitwise OR (40_bitregister128.md R126). -/
  | vor (d a b : VReg)
  /-- `VXOR vd, va, vb`: bitwise XOR (40_bitregister128.md R127). -/
  | vxor (d a b : VReg)
  /-- `VANDN vd, va, vb`: AND-NOT (40_bitregister128.md R128). -/
  | vandn (d a b : VReg)
  /-- `VNOT vd, va`: bitwise NOT (40_bitregister128.md R129). -/
  | vnot (d a : VReg)
  /-- `VALL xd, va`: all-ones test (40_bitregister128.md R130). -/
  | vall (d : XReg) (a : VReg)
  /-- `VANY xd, va`: any-ones test (40_bitregister128.md R131). -/
  | vany (d : XReg) (a : VReg)
  /-- `VADD vd, va, vb`: lane-wise wrapping add (42_lane_arith.md R180). -/
  | vadd (d a b : VReg)
  /-- `VSUB vd, va, vb`: lane-wise wrapping subtract (42_lane_arith.md R181). -/
  | vsub (d a b : VReg)
  /-- `VNEG vd, va`: lane-wise negate (42_lane_arith.md R182). -/
  | vneg (d a : VReg)
  /-- `VMUL vd, va, vb`: lane-wise multiply, low 8 bits (42_lane_arith.md R183). -/
  | vmul (d a b : VReg)
  /-- `VSHL vd, va, xb`: lane-wise logical shift left (42_lane_arith.md R186). -/
  | vshl (d a : VReg) (b : XReg)
  /-- `VSAR vd, va, xb`: lane-wise arithmetic shift right (42_lane_arith.md R187). -/
  | vsar (d a : VReg) (b : XReg)
  /-- `VROTL vd, va, xb`: lane-wise rotate left (44_reduce_saturate.md R248). -/
  | vrotl (d a : VReg) (b : XReg)
  /-- `VEQ xd, va, vb`: whole-vector equality (42_lane_arith.md R184). -/
  | veq (d : XReg) (a b : VReg)
  /-- `VCUT vd, va, xb`: zero every lane with index ≥ n (41_lane_construct_memory.md R156). -/
  | vcut (d a : VReg) (b : XReg)
  /-- `VINS vd, va, xb, xc`: replace one lane (41_lane_construct_memory.md R157). -/
  | vins (d a : VReg) (b c : XReg)
  /-- `VEXT xd, va, xb`: read one lane (41_lane_construct_memory.md R158). -/
  | vext (d : XReg) (a : VReg) (b : XReg)
  /-- `VSEL vd, vc, va, vb`: lane-wise select (43_boolean_select.md R212). -/
  | vsel (d a b c : VReg)
  /-- `VIFADD vd, vc, va, vb`: conditional lane-wise add (43_boolean_select.md R213). -/
  | vifadd (d a b c : VReg)
  /-- `VIFSUB vd, vc, va, vb`: conditional lane-wise subtract (43_boolean_select.md R214). -/
  | vifsub (d a b c : VReg)
  /-- `VIFMUL vd, vc, va, vb`: conditional lane-wise multiply (43_boolean_select.md R215). -/
  | vifmul (d a b c : VReg)
  /-- `VHADD xd, va`: horizontal sum, wrapping (44_reduce_saturate.md R240). -/
  | vhadd (d : XReg) (a : VReg)
  /-- `VHADDX xd, va`: horizontal sum, exact (44_reduce_saturate.md R241). -/
  | vhaddx (d : XReg) (a : VReg)
  /-- `VADDS vd, va, vb`: lane-wise signed saturating add (44_reduce_saturate.md R242). -/
  | vadds (d a b : VReg)
  /-- `VSUBS vd, va, vb`: lane-wise signed saturating subtract (44_reduce_saturate.md R243). -/
  | vsubs (d a b : VReg)
  /-- `VMIN vd, va, vb`: lane-wise signed minimum (44_reduce_saturate.md R244). -/
  | vmin (d a b : VReg)
  /-- `VMAX vd, va, vb`: lane-wise signed maximum (44_reduce_saturate.md R245). -/
  | vmax (d a b : VReg)
  /-- `VABS vd, va`: lane-wise absolute value, wrapping (44_reduce_saturate.md R246). -/
  | vabs (d a : VReg)
  /-- `VABSS vd, va`: lane-wise absolute value, saturating (44_reduce_saturate.md R247). -/
  | vabss (d a : VReg)
  /-- `VCMPEQ vd, va, vb`: lane-wise equality mask (43_boolean_select.md R216). -/
  | vcmpeq (d a b : VReg)
  /-- `VCMPGT vd, va, vb`: lane-wise signed greater-than mask (43_boolean_select.md R217). -/
  | vcmpgt (d a b : VReg)
deriving DecidableEq, Repr

end Sys2Proof
end

