-- ==== Sys2Proof/WellFormed.lean ====
section
/-! DEFINITION. When a list of words is one well-formed command, said from the opcode map's match and mask columns
alone (spec/30_encoding.md R96, R97, R99). The decoder (Decode.lean) is written from the formats R91 to R95 instead, so
that the two can be held against each other. No operand of an `Instr` can be ill-formed: its type carries the range
(R94). -/

namespace Sys2Proof

/-- One row of the opcode map (30_encoding.md R96): a first word `w` encodes the command iff `w &&& mask = pattern`
(the spec's "match"), and the command is `words` words long. -/
structure OpcodeRow where
  mnemonic : String
  pattern  : Word
  mask     : Word
  words    : Nat
deriving DecidableEq, Repr

/-- Rows 1 to 11 of the opcode map. -/
def opcodeRows1 : List OpcodeRow :=
  [⟨"VZERO", 0x04000000, 0xFC3FFFFF, 1⟩,
   ⟨"VMOV", 0x08000000, 0xFC03FFFF, 1⟩,
   ⟨"VBCAST", 0x0C000000, 0xFC03FFFF, 1⟩,
   ⟨"VLIT", 0x10000000, 0xFC3FFFFF, 5⟩,
   ⟨"VBOOLS", 0x14000000, 0xFC3F0000, 1⟩,
   ⟨"XLI", 0x18000000, 0xFC3FFFFF, 3⟩,
   ⟨"VLD", 0x20000000, 0xFC03FFFF, 1⟩,
   ⟨"VST", 0x24000000, 0xFFC03FFF, 1⟩,
   ⟨"VLDA", 0x28000000, 0xFC03FFFF, 1⟩,
   ⟨"VSTA", 0x2C000000, 0xFFC03FFF, 1⟩,
   ⟨"VLDP", 0x30000000, 0xFC003FFF, 1⟩]

/-- Rows 12 to 22 of the opcode map. -/
def opcodeRows2 : List OpcodeRow :=
  [⟨"VSTP", 0x34000000, 0xFFC003FF, 1⟩,
   ⟨"VAND", 0x40000000, 0xFC003FFF, 1⟩,
   ⟨"VOR", 0x44000000, 0xFC003FFF, 1⟩,
   ⟨"VXOR", 0x48000000, 0xFC003FFF, 1⟩,
   ⟨"VANDN", 0x4C000000, 0xFC003FFF, 1⟩,
   ⟨"VNOT", 0x50000000, 0xFC03FFFF, 1⟩,
   ⟨"VALL", 0x54000000, 0xFC03FFFF, 1⟩,
   ⟨"VANY", 0x58000000, 0xFC03FFFF, 1⟩,
   ⟨"VADD", 0x60000000, 0xFC003FFF, 1⟩,
   ⟨"VSUB", 0x64000000, 0xFC003FFF, 1⟩,
   ⟨"VNEG", 0x68000000, 0xFC03FFFF, 1⟩]

/-- Rows 23 to 33 of the opcode map. -/
def opcodeRows3 : List OpcodeRow :=
  [⟨"VMUL", 0x6C000000, 0xFC003FFF, 1⟩,
   ⟨"VSHL", 0x70000000, 0xFC003FFF, 1⟩,
   ⟨"VSAR", 0x74000000, 0xFC003FFF, 1⟩,
   ⟨"VROTL", 0x78000000, 0xFC003FFF, 1⟩,
   ⟨"VEQ", 0x7C000000, 0xFC003FFF, 1⟩,
   ⟨"VCUT", 0x80000000, 0xFC003FFF, 1⟩,
   ⟨"VINS", 0x84000000, 0xFC0003FF, 1⟩,
   ⟨"VEXT", 0x88000000, 0xFC003FFF, 1⟩,
   ⟨"VSEL", 0x90000000, 0xFC0003FF, 1⟩,
   ⟨"VIFADD", 0x94000000, 0xFC0003FF, 1⟩,
   ⟨"VIFSUB", 0x98000000, 0xFC0003FF, 1⟩]

/-- Rows 34 to 44 of the opcode map. -/
def opcodeRows4 : List OpcodeRow :=
  [⟨"VIFMUL", 0x9C000000, 0xFC0003FF, 1⟩,
   ⟨"VHADD", 0xA0000000, 0xFC03FFFF, 1⟩,
   ⟨"VHADDX", 0xA4000000, 0xFC03FFFF, 1⟩,
   ⟨"VADDS", 0xA8000000, 0xFC003FFF, 1⟩,
   ⟨"VSUBS", 0xAC000000, 0xFC003FFF, 1⟩,
   ⟨"VMIN", 0xB0000000, 0xFC003FFF, 1⟩,
   ⟨"VMAX", 0xB4000000, 0xFC003FFF, 1⟩,
   ⟨"VABS", 0xB8000000, 0xFC03FFFF, 1⟩,
   ⟨"VABSS", 0xBC000000, 0xFC03FFFF, 1⟩,
   ⟨"VCMPEQ", 0xC0000000, 0xFC003FFF, 1⟩,
   ⟨"VCMPGT", 0xC4000000, 0xFC003FFF, 1⟩]

/-- The opcode map of 30_encoding.md R96, all 44 rows. -/
def opcodeMap : List OpcodeRow := opcodeRows1 ++ opcodeRows2 ++ opcodeRows3 ++ opcodeRows4

/-- The row a first word matches, if any: none for an unassigned OP (30_encoding.md R98) and none where a reserved bit
or an unused field is not 0 (R97). -/
def matchingRow (w : Word) : Option OpcodeRow := opcodeMap.find? fun r => w &&& r.mask == r.pattern

/-- The words are exactly one well-formed command: a first word that matches a row, and as many literal words after it
as the row's length asks for (30_encoding.md R96, R99). -/
def commandWellFormed : List Word → Bool
  | [] => false
  | w :: rest =>
    match matchingRow w with
    | none => false
    | some r => rest.length + 1 == r.words

end Sys2Proof
end

