-- ==== Sys2Proof/Decode.lean ====
section
/-! DEFINITION. Decoding the words of the command stream (spec/30_encoding.md R90 to R100): total, with a name for
every reason a command cannot be decoded; and after it the encoder, written from the same formats. -/

namespace Sys2Proof

/-- Why the words at the command index are no command. All are `IllegalCommand` (60_exceptions.md R282; log entry 16). -/
inductive DecodeError where
  /-- There is no word at all. Never met in a run: a command is attempted only when `cix < L` (10_state.md R40). -/
  | noWord
  /-- The OP field is unassigned (30_encoding.md R98). -/
  | unassignedOp (op : Nat)
  /-- The OP is assigned but a reserved bit or an unused field is not 0 (30_encoding.md R97). -/
  | reservedBits
  /-- The literal words lie past the end of the stream (30_encoding.md R99). -/
  | truncated
deriving DecidableEq, Repr

/-! ## Fields of a first word (30_encoding.md R91, R92) -/

/-- OP, bits 31:26. -/
def opField (w : Word) : Nat := w.toNat / 2 ^ 26

/-- D, bits 25:22. -/
def fieldD (w : Word) : Fin 16 := Fin.ofNat 16 (w.toNat / 2 ^ 22)

/-- A, bits 21:18. -/
def fieldA (w : Word) : Fin 16 := Fin.ofNat 16 (w.toNat / 2 ^ 18)

/-- B, bits 17:14. -/
def fieldB (w : Word) : Fin 16 := Fin.ofNat 16 (w.toNat / 2 ^ 14)

/-- C, bits 13:10. -/
def fieldC (w : Word) : Fin 16 := Fin.ofNat 16 (w.toNat / 2 ^ 10)

/-- IMM16, bits 15:0 of format I. -/
def fieldImm16 (w : Word) : BitVec 16 := BitVec.ofNat 16 w.toNat

/-- Bits `n - 1` down to 0 are all 0. -/
def lowBitsZero (w : Word) (n : Nat) : Bool := w.toNat % 2 ^ n == 0

/-- The length of a command in words, a function of OP alone (30_encoding.md R93). -/
def commandLength (op : Nat) : Nat := if op = 0x04 then 5 else if op = 0x06 then 3 else 1

/-! ## The formats, one reader for each set of fields a command uses (30_encoding.md R91, R92, R97) -/

/-- Format R with D alone. -/
def formatD (w : Word) (f : Fin 16 → Instr) : Except DecodeError Instr :=
  if lowBitsZero w 22 then .ok (f (fieldD w)) else .error .reservedBits

/-- Format R with D and A. -/
def formatDA (w : Word) (f : Fin 16 → Fin 16 → Instr) : Except DecodeError Instr :=
  if lowBitsZero w 18 then .ok (f (fieldD w) (fieldA w)) else .error .reservedBits

/-- Format R with D, A and B. -/
def formatDAB (w : Word) (f : Fin 16 → Fin 16 → Fin 16 → Instr) : Except DecodeError Instr :=
  if lowBitsZero w 14 then .ok (f (fieldD w) (fieldA w) (fieldB w)) else .error .reservedBits

/-- Format R with D, A, B and C. -/
def formatDABC (w : Word) (f : Fin 16 → Fin 16 → Fin 16 → Fin 16 → Instr) : Except DecodeError Instr :=
  if lowBitsZero w 10 then .ok (f (fieldD w) (fieldA w) (fieldB w) (fieldC w)) else .error .reservedBits

/-- Format R with A and B, the full stores. -/
def formatAB (w : Word) (f : Fin 16 → Fin 16 → Instr) : Except DecodeError Instr :=
  if lowBitsZero w 14 && fieldD w == 0 then .ok (f (fieldA w) (fieldB w)) else .error .reservedBits

/-- Format R with A, B and C, the partial store. -/
def formatABC (w : Word) (f : Fin 16 → Fin 16 → Fin 16 → Instr) : Except DecodeError Instr :=
  if lowBitsZero w 10 && fieldD w == 0 then .ok (f (fieldA w) (fieldB w) (fieldC w)) else .error .reservedBits

/-- Format I: D and IMM16, bits 21:16 reserved. -/
def formatI (w : Word) (f : Fin 16 → BitVec 16 → Instr) : Except DecodeError Instr :=
  if w.toNat / 2 ^ 16 % 2 ^ 6 == 0 then .ok (f (fieldD w) (fieldImm16 w)) else .error .reservedBits

/-- Format L with K = 4: the literal is `W4 ++ W3 ++ W2 ++ W1` (30_encoding.md R95). -/
def formatVlit (w : Word) (rest : List Word) : Except DecodeError Instr :=
  if lowBitsZero w 22 then
    match rest with
    | w1 :: w2 :: w3 :: w4 :: _ => .ok (.vlit (fieldD w) (w4 ++ w3 ++ w2 ++ w1))
    | _ => .error .truncated
  else .error .reservedBits

/-- Format L with K = 2: the literal is `W2 ++ W1` (30_encoding.md R95). -/
def formatXli (w : Word) (rest : List Word) : Except DecodeError Instr :=
  if lowBitsZero w 22 then
    match rest with
    | w1 :: w2 :: _ => .ok (.xli (fieldD w) (w2 ++ w1))
    | _ => .error .truncated
  else .error .reservedBits

/-- The command whose OP field is `op`, with first word `w` followed by `rest` (30_encoding.md R96 to R99). -/
def decodeOp (op : Nat) (w : Word) (rest : List Word) : Except DecodeError Instr :=
  match op with
  | 0x01 => formatD w .vzero
  | 0x02 => formatDA w .vmov
  | 0x03 => formatDA w .vbcast
  | 0x04 => formatVlit w rest
  | 0x05 => formatI w .vbools
  | 0x06 => formatXli w rest
  | 0x08 => formatDA w .vld
  | 0x09 => formatAB w .vst
  | 0x0A => formatDA w .vlda
  | 0x0B => formatAB w .vsta
  | 0x0C => formatDAB w .vldp
  | 0x0D => formatABC w .vstp
  | 0x10 => formatDAB w .vand
  | 0x11 => formatDAB w .vor
  | 0x12 => formatDAB w .vxor
  | 0x13 => formatDAB w .vandn
  | 0x14 => formatDA w .vnot
  | 0x15 => formatDA w .vall
  | 0x16 => formatDA w .vany
  | 0x18 => formatDAB w .vadd
  | 0x19 => formatDAB w .vsub
  | 0x1A => formatDA w .vneg
  | 0x1B => formatDAB w .vmul
  | 0x1C => formatDAB w .vshl
  | 0x1D => formatDAB w .vsar
  | 0x1E => formatDAB w .vrotl
  | 0x1F => formatDAB w .veq
  | 0x20 => formatDAB w .vcut
  | 0x21 => formatDABC w .vins
  | 0x22 => formatDAB w .vext
  | 0x24 => formatDABC w .vsel
  | 0x25 => formatDABC w .vifadd
  | 0x26 => formatDABC w .vifsub
  | 0x27 => formatDABC w .vifmul
  | 0x28 => formatDA w .vhadd
  | 0x29 => formatDA w .vhaddx
  | 0x2A => formatDAB w .vadds
  | 0x2B => formatDAB w .vsubs
  | 0x2C => formatDAB w .vmin
  | 0x2D => formatDAB w .vmax
  | 0x2E => formatDA w .vabs
  | 0x2F => formatDA w .vabss
  | 0x30 => formatDAB w .vcmpeq
  | 0x31 => formatDAB w .vcmpgt
  | op => .error (.unassignedOp op)

/-- The command at the head of a list of words, chosen by the OP field of the first (30_encoding.md R93, R100). Words
after the command are not read. -/
def decode : List Word → Except DecodeError Instr
  | [] => .error .noWord
  | w :: rest => decodeOp (opField w) w rest

/-! ## The encoder -/

/-- A first word of format R (30_encoding.md R91); a field the command does not use is 0 (R97). -/
def wordR (op : Nat) (d a b c : Fin 16) : Word :=
  BitVec.ofNat 32 (op * 2 ^ 26 + d.val * 2 ^ 22 + a.val * 2 ^ 18 + b.val * 2 ^ 14 + c.val * 2 ^ 10)

/-- A first word of format I (30_encoding.md R92). -/
def wordI (op : Nat) (d : Fin 16) (imm : BitVec 16) : Word :=
  BitVec.ofNat 32 (op * 2 ^ 26 + d.val * 2 ^ 22 + imm.toNat)

/-- Literal word `W(j+1)` of a literal: its bits `32j + 31` down to `32j` (30_encoding.md R95). -/
def literal {n : Nat} (imm : BitVec n) (j : Nat) : Word := imm.extractLsb' (32 * j) 32

/-- The words of a command, in stream order (30_encoding.md R90 to R96). -/
def encode : Instr → List Word
  | .vzero d => [wordR 0x01 d 0 0 0]
  | .vmov d a => [wordR 0x02 d a 0 0]
  | .vbcast d a => [wordR 0x03 d a 0 0]
  | .vlit d imm => [wordR 0x04 d 0 0 0, literal imm 0, literal imm 1, literal imm 2, literal imm 3]
  | .vbools d imm => [wordI 0x05 d imm]
  | .xli d imm => [wordR 0x06 d 0 0 0, literal imm 0, literal imm 1]
  | .vld d a => [wordR 0x08 d a 0 0]
  | .vst a b => [wordR 0x09 0 a b 0]
  | .vlda d a => [wordR 0x0A d a 0 0]
  | .vsta a b => [wordR 0x0B 0 a b 0]
  | .vldp d a b => [wordR 0x0C d a b 0]
  | .vstp a b c => [wordR 0x0D 0 a b c]
  | .vand d a b => [wordR 0x10 d a b 0]
  | .vor d a b => [wordR 0x11 d a b 0]
  | .vxor d a b => [wordR 0x12 d a b 0]
  | .vandn d a b => [wordR 0x13 d a b 0]
  | .vnot d a => [wordR 0x14 d a 0 0]
  | .vall d a => [wordR 0x15 d a 0 0]
  | .vany d a => [wordR 0x16 d a 0 0]
  | .vadd d a b => [wordR 0x18 d a b 0]
  | .vsub d a b => [wordR 0x19 d a b 0]
  | .vneg d a => [wordR 0x1A d a 0 0]
  | .vmul d a b => [wordR 0x1B d a b 0]
  | .vshl d a b => [wordR 0x1C d a b 0]
  | .vsar d a b => [wordR 0x1D d a b 0]
  | .vrotl d a b => [wordR 0x1E d a b 0]
  | .veq d a b => [wordR 0x1F d a b 0]
  | .vcut d a b => [wordR 0x20 d a b 0]
  | .vins d a b c => [wordR 0x21 d a b c]
  | .vext d a b => [wordR 0x22 d a b 0]
  | .vsel d a b c => [wordR 0x24 d a b c]
  | .vifadd d a b c => [wordR 0x25 d a b c]
  | .vifsub d a b c => [wordR 0x26 d a b c]
  | .vifmul d a b c => [wordR 0x27 d a b c]
  | .vhadd d a => [wordR 0x28 d a 0 0]
  | .vhaddx d a => [wordR 0x29 d a 0 0]
  | .vadds d a b => [wordR 0x2A d a b 0]
  | .vsubs d a b => [wordR 0x2B d a b 0]
  | .vmin d a b => [wordR 0x2C d a b 0]
  | .vmax d a b => [wordR 0x2D d a b 0]
  | .vabs d a => [wordR 0x2E d a 0 0]
  | .vabss d a => [wordR 0x2F d a 0 0]
  | .vcmpeq d a b => [wordR 0x30 d a b 0]
  | .vcmpgt d a b => [wordR 0x31 d a b 0]

/-! ## The opcode table's numbering of bits -/

/-- The words of a command whose bits are `w`, bit 0 the least significant bit of the first word, later words counting
on from it. Bits from `nbits` up are 0; five words are laid out, the length of the longest command. -/
def tableWords (nbits w : Nat) : List Word :=
  (List.range 5).map fun j => BitVec.ofNat 32 (w % 2 ^ nbits / 2 ^ (32 * j))

/-- The command the decoder reads from a command whose bits are `w`, numbered as the opcode table numbers them. -/
def decodeTableWord (nbits w : Nat) : Option Instr :=
  match decode (tableWords nbits w) with
  | .ok i => some i
  | .error _ => none

end Sys2Proof
end

