-- ==== Sys2Proof/Machine/Operands.lean ====
section
/-! DEFINITION. Lanes, integer readings and operand helpers (spec/00_scope.md R10 to R15), and the lane functions that
the commands of files 41 to 44 are made of. Everything here is a pure function of values. -/

namespace Sys2Proof.Machine

/-- Lane `i` of a vector: bits `8i+7` down to `8i` (00_scope.md R11). -/
def lane (v : Vec) (i : Nat) : Lane := v.extractLsb' (8 * i) 8

/-- The vector whose lane i is entry i of the list, lane 0 in the lowest byte (00_scope.md R11, 20_memory.md R62). -/
def packLanes : List Lane → Vec
  | [] => 0
  | b :: bs => (packLanes bs <<< 8) ||| b.setWidth 128

/-- `lanes(f)`: the vector whose lane i is `f i` for i in 0 to 15 (00_scope.md R11). -/
def lanes (f : Nat → Lane) : Vec := packLanes ((List.range 16).map f)

/-- The first `n` lanes of a vector, in lane order: the bytes a store moves (20_memory.md R62). -/
def laneBytes (v : Vec) (n : Nat) : List Lane := (List.range n).map (lane v)

/-- One lane function applied to every lane. -/
def mapLanes (f : Lane → Lane) (p : Vec) : Vec := lanes fun i => f (lane p i)

/-- One lane function applied to the lanes of two vectors, pair by pair. -/
def zipLanes (f : Lane → Lane → Lane) (p q : Vec) : Vec := lanes fun i => f (lane p i) (lane q i)

/-- `wrap8(z)`: the 8-bit pattern of z modulo 256 (00_scope.md R12). -/
def wrap8 (z : Int) : Lane := BitVec.ofInt 8 z

/-- `sat8(z)`: the 8-bit pattern of z clamped to -128 to 127 (00_scope.md R12). -/
def sat8 (z : Int) : Lane := BitVec.ofInt 8 (min 127 (max (-128) z))

/-- `clamp16(n)`: 0 if n ≤ 0, 16 if n ≥ 16, n otherwise (00_scope.md R12). -/
def clamp16 (n : Int) : Nat := if n ≤ 0 then 0 else if 16 ≤ n then 16 else n.toNat

/-- The all-ones vector ALL1 (00_scope.md R15). -/
def allOnes : Vec := BitVec.allOnes 128

/-- The low 8 bits of a scalar operand, the value VBCAST and VINS use (41_lane_construct_memory.md R150, R157). -/
def scalarByte (s : Scalar) : Lane := s.extractLsb' 0 8

/-- The lane a scalar index selects: its low 4 bits (41_lane_construct_memory.md R157, R158). -/
def laneIndex (s : Scalar) : Nat := (s.extractLsb' 0 4).toNat

/-- The rotate amount of a scalar: its low 3 bits (44_reduce_saturate.md R248). -/
def rotateAmount (s : Scalar) : Nat := (s.extractLsb' 0 3).toNat

/-- Wrapping lane add (42_lane_arith.md R180). -/
def laneAdd (p q : Lane) : Lane := wrap8 (p.toInt + q.toInt)

/-- Wrapping lane subtract (42_lane_arith.md R181). -/
def laneSub (p q : Lane) : Lane := wrap8 (p.toInt - q.toInt)

/-- Wrapping lane negate, `0 - self` (42_lane_arith.md R182). -/
def laneNeg (p : Lane) : Lane := wrap8 (0 - p.toInt)

/-- Lane multiply, low 8 bits of the signed product (42_lane_arith.md R183). -/
def laneMul (p q : Lane) : Lane := wrap8 (p.toInt * q.toInt)

/-- Logical shift left within the lane (42_lane_arith.md R186). -/
def laneShl (c : Nat) (p : Lane) : Lane := BitVec.ofNat 8 (p.toNat * 2 ^ c % 256)

/-- Arithmetic shift right, rounding toward minus infinity (42_lane_arith.md R187). `Int.fdiv` is floor division. -/
def laneSar (c : Nat) (p : Lane) : Lane := wrap8 (Int.fdiv p.toInt (2 ^ c))

/-- Rotate left within the lane by r in 0 to 7 (44_reduce_saturate.md R248). -/
def laneRotl (r : Nat) (p : Lane) : Lane := BitVec.ofNat 8 ((p.toNat * 2 ^ r + p.toNat / 2 ^ (8 - r)) % 256)

/-- Saturating lane add (44_reduce_saturate.md R242). -/
def laneAddSat (p q : Lane) : Lane := sat8 (p.toInt + q.toInt)

/-- Saturating lane subtract (44_reduce_saturate.md R243). -/
def laneSubSat (p q : Lane) : Lane := sat8 (p.toInt - q.toInt)

/-- Signed lane minimum (44_reduce_saturate.md R244). -/
def laneMin (p q : Lane) : Lane := if p.toInt ≤ q.toInt then p else q

/-- Signed lane maximum (44_reduce_saturate.md R245). -/
def laneMax (p q : Lane) : Lane := if q.toInt ≤ p.toInt then p else q

/-- Wrapping lane absolute value; -128 stays -128 (44_reduce_saturate.md R246). -/
def laneAbs (p : Lane) : Lane := wrap8 p.toInt.natAbs

/-- Saturating lane absolute value; -128 becomes 127 (44_reduce_saturate.md R247, 90_conflicts.md C2). -/
def laneAbsSat (p : Lane) : Lane := sat8 p.toInt.natAbs

/-- The exact sum of the sixteen signed lanes (44_reduce_saturate.md R240, R241). -/
def laneSum (p : Vec) : Int := ((List.range 16).map fun i => (lane p i).toInt).sum

/-- The first k lanes of a vector, the others 0 (41_lane_construct_memory.md R156). -/
def cutLanes (k : Nat) (p : Vec) : Vec := lanes fun i => if i < k then lane p i else 0

/-- A vector with one lane replaced (41_lane_construct_memory.md R157). -/
def insertLane (j : Nat) (b : Lane) (p : Vec) : Vec := lanes fun i => if i = j then b else lane p i

/-- `(m & p) | (~m & q)`, the select of 43_boolean_select.md R212 and R215. -/
def selectBits (m p q : Vec) : Vec := (m &&& p) ||| (~~~m &&& q)

end Sys2Proof.Machine
end

