-- ==== Sys2Proof/Machine/Flags.lean ====
section
/-! DEFINITION. The hardware has no flags, condition codes or predicate registers (spec/10_state.md R36). What stands
in their place: truth values written to a scalar register as 1 or 0, and boolean lanes of 0xFF or 0x00. -/

namespace Sys2Proof.Machine

/-- A truth value as a scalar result, 1 or 0 (10_state.md R36). -/
def boolScalar (b : Bool) : Scalar := if b then 1 else 0

/-- A truth value as a lane, 0xFF or 0x00 (43_boolean_select.md R210). -/
def boolLane (b : Bool) : Lane := if b then 0xFF else 0x00

/-- `IsBoolVec(m)`: every lane is 0x00 or 0xFF (00_scope.md R15, 43_boolean_select.md R211). -/
def isBoolVec (m : Vec) : Bool := (List.range 16).all fun i => lane m i == 0x00 || lane m i == 0xFF

/-- The boolean lane vector of sixteen booleans, bit i for lane i (43_boolean_select.md R210). -/
def boolVec (bits : BitVec 16) : Vec := lanes fun i => boolLane (bits.getLsbD i)

/-- All-ones test (40_bitregister128.md R130). -/
def isAllOnes (p : Vec) : Bool := p == allOnes

/-- Any-ones test (40_bitregister128.md R131). -/
def isAnyOne (p : Vec) : Bool := p != 0

/-- Whole-vector equality: the XOR of the two is zero (42_lane_arith.md R184). -/
def isEqual (p q : Vec) : Bool := (p ^^^ q) == 0

/-- Lane equality mask (43_boolean_select.md R216). -/
def laneCmpEq (p q : Lane) : Lane := boolLane (p == q)

/-- Signed lane greater-than mask (43_boolean_select.md R217). -/
def laneCmpGt (p q : Lane) : Lane := boolLane (decide (q.toInt < p.toInt))

end Sys2Proof.Machine
end

