-- ==== Sys2Proof/Config.lean ====
section
/-! DEFINITION. What is fixed for the machine and what the platform supplies: the open parameters VALID, OVERREAD
and PAGE_SIZE of spec/00_scope.md R9. They are plain data, so that a machine with any of them can be written out
(log entries 2 and 3). -/

namespace Sys2Proof

/-- The kind of a memory access, the second argument of VALID (00_scope.md R9, 20_memory.md R64). -/
inductive AccessKind where
  | read
  | write
deriving DecidableEq, Repr

/-- A run of byte addresses, `base` to `base + size - 1`, with the access kinds that are VALID in it.
A finite list of regions can say any VALID, since there are finitely many addresses (log entry 2). -/
structure Region where
  base     : Nat
  size     : Nat
  readable : Bool
  writable : Bool
deriving DecidableEq, Repr

/-- The platform's parameters (00_scope.md R9). No command and no host transaction changes them. -/
structure Platform where
  /-- VALID: a byte may be accessed iff some region holds it and permits the kind. -/
  regions   : List Region
  /-- OVERREAD: whether a partial load may read 16 bytes that lie within one page. -/
  overread  : Bool
  /-- PAGE_SIZE is `16 * 2 ^ pageShift`: every power of two that is at least 16. -/
  pageShift : Nat
deriving DecidableEq, Repr

/-- The platform of the machine right after power-on. OVERREAD = false and PAGE_SIZE = 4096 are the defaults of
00_scope.md R9. VALID has no default there: DESIGN CHOICE, every byte is VALID for both kinds (log entry 3, unsafe),
as the spec's test vectors have it (95_test_vectors.md, opening). -/
def defaultPlatform : Platform where
  regions := [{ base := 0, size := 2 ^ 64, readable := true, writable := true }]
  overread := false
  pageShift := 8

end Sys2Proof
end

