-- ==== Sys2Proof/Machine/State.lean ====
section
/-! DEFINITION. The state of the block as plain data (spec/10_state.md R30 to R45), the reasons a step can stop, and
the state right after reset. -/

namespace Sys2Proof.Machine

/-- The six causes of a fault of the block (60_exceptions.md R281). The block TAKES these (R290): a command that
raises one answers a next state, so none of them is a Lean fault. -/
inductive Cause where
  /-- Code 1: the command cannot be decoded (60_exceptions.md R282). -/
  | illegalCommand
  /-- Code 2: a register that holds no value was read (60_exceptions.md R283). -/
  | unwrittenRegister
  /-- Code 3: the count of VSHL or VSAR is outside 0 to 7 (60_exceptions.md R284). -/
  | shiftCountRange
  /-- Code 4: a mask lane is neither 0x00 nor 0xFF (60_exceptions.md R285). -/
  | maskNotBoolean
  /-- Code 5: the address of VLDA or VSTA is not a multiple of 16 (60_exceptions.md R286). -/
  | misalignedAccess
  /-- Code 6: a footprint wraps or holds a byte that is not VALID (60_exceptions.md R287). -/
  | memoryFault
deriving DecidableEq, Repr

/-- Data memory M (10_state.md R42, 20_memory.md R60): its listed bytes. Addresses are strictly rising and no entry
is equal to what an unlisted address reads as (Machine/Ops.lean `Memory.wf`). -/
abbrev Memory := List Host.Cell

/-- The state of the block (10_state.md R30), with the parameters of the step (R44) held beside it as data. -/
structure State where
  /-- Vector registers v0 to v15; `none` is the spec's "holds no value" (10_state.md R31). -/
  v         : Vector (Option Vec) 16
  /-- Scalar registers x0 to x15; `none` is the spec's "holds no value" (10_state.md R33). -/
  x         : Vector (Option Scalar) 16
  /-- The command index, a natural number (10_state.md R34). -/
  cix       : Nat
  /-- STATUS: FAULT in bit 0, CAUSE in bits 7:4, all other bits 0 (10_state.md R37). -/
  status    : BitVec 32
  /-- FAULT_CIX (10_state.md R38). -/
  faultCix  : BitVec 64
  /-- FAULT_ADDR (10_state.md R39). -/
  faultAddr : BitVec 64
  /-- FAULT_WORD (10_state.md R40). -/
  faultWord : BitVec 32
  /-- Data memory M (10_state.md R42). -/
  mem       : Memory
  /-- The command stream C of the run, a parameter of the step (10_state.md R44; log entry 5). -/
  stream    : List Word
  /-- VALID, OVERREAD and PAGE_SIZE, parameters of the step (10_state.md R44; log entry 2). -/
  platform  : Platform
deriving DecidableEq, Repr

/-- Why a step can stop without a next state. No command raises one: every fault of the block is taken. -/
inductive Fault where
  /-- Raised by `step` alone, where FAULT = 0 and `cix` is past the end of the stream, which 10_state.md R34 says does
  not happen. No run from reset reaches such a state. Safe: the model stops where the spec gives no meaning
  (log entry 7). -/
  | cixOutsideStream
deriving DecidableEq, Repr

/-- Why the model gives no meaning. -/
inductive Refusal where
  /-- Raised by an arm of `exec` whose command has no meaning yet; no arm is left so. Safe. -/
  | notModelled (mnemonic : String)
  /-- Raised by a host transaction that 70_reset_and_hazards.md R316 and R323 allow only when the block is not running,
  made while it runs. Safe: the spec gives such a transaction no effect (log entry 8). -/
  | hostWhileRunning
deriving DecidableEq, Repr

/-- The machine right after reset (10_state.md R45, 70_reset_and_hazards.md R310, R311). Every register is unwritten,
`cix` and the status registers are 0, and no run has been started. Memory is not reset by the block: at power-on it
holds the platform's content, here 0 everywhere (DESIGN CHOICE, log entry 4); the platform is `defaultPlatform`
(log entry 3). -/
def State.reset : State where
  v := Vector.replicate 16 none
  x := Vector.replicate 16 none
  cix := 0
  status := 0
  faultCix := 0
  faultAddr := 0
  faultWord := 0
  mem := []
  stream := []
  platform := defaultPlatform

end Sys2Proof.Machine
end

