-- ==== Sys2Proof/Machine/Ops.lean ====
section
/-! DEFINITION. The named operations every command is made of: register access, data memory, the access check, fault
entry and reset, completing a command, the shapes commands share, and the command stream (spec/00_scope.md R13, R14,
20_memory.md, 60_exceptions.md). -/

namespace Sys2Proof.Machine

open Host (Outcome)

/-! ## Faults raised by a command -/

/-- A fault raised by a command, with the address it records (00_scope.md R14 `raise F(info)`). -/
structure Raised where
  cause : Cause
  addr  : Scalar
deriving DecidableEq, Repr

/-- The cause code (60_exceptions.md R281). -/
def causeCode : Cause → Nat
  | .illegalCommand    => 1
  | .unwrittenRegister => 2
  | .shiftCountRange   => 3
  | .maskNotBoolean    => 4
  | .misalignedAccess  => 5
  | .memoryFault       => 6

/-! ## Registers -/

/-- What vector register `r` holds, or that it holds no value (10_state.md R31). -/
def vreg (s : State) (r : VReg) : Option Vec := s.v[r]

/-- What scalar register `r` holds, or that it holds no value (10_state.md R33). -/
def xreg (s : State) (r : XReg) : Option Scalar := s.x[r]

/-- `V(r)`: the value, or `UnwrittenRegister` (00_scope.md R13, 60_exceptions.md R283). -/
def readV (s : State) (r : VReg) : Except Raised Vec :=
  match vreg s r with
  | some p => .ok p
  | none => .error ⟨.unwrittenRegister, 0⟩

/-- `X(r)`: the value, or `UnwrittenRegister` (00_scope.md R13, 60_exceptions.md R283). -/
def readX (s : State) (r : XReg) : Except Raised Scalar :=
  match xreg s r with
  | some n => .ok n
  | none => .error ⟨.unwrittenRegister, 0⟩

/-- `v[r] <- val` (00_scope.md R13): all 128 bits are replaced (10_state.md R32). -/
def setV (s : State) (r : VReg) (val : Vec) : State := { s with v := s.v.set r (some val) }

/-- `x[r] <- val` (00_scope.md R13). -/
def setX (s : State) (r : XReg) (val : Scalar) : State := { s with x := s.x.set r (some val) }

/-! ## Data memory -/

/-- What a byte that is not listed reads as. The content of memory is the platform's (10_state.md R42): DESIGN CHOICE
0, as the spec's test vectors have it (log entry 4). -/
def unlistedByte : Lane := 0

/-- The byte at address `a` (20_memory.md R60). -/
def Memory.read : Memory → Nat → Lane
  | [], _ => unlistedByte
  | (k, b) :: m, a => if k = a then b else Memory.read m a

/-- Write one byte, keeping the canonical form: a byte equal to `unlistedByte` is not listed. -/
def Memory.write : Memory → Nat → Lane → Memory
  | [], a, b => if b = unlistedByte then [] else [(a, b)]
  | (k, c) :: m, a, b =>
    if a < k then (if b = unlistedByte then (k, c) :: m else (a, b) :: (k, c) :: m)
    else if a = k then (if b = unlistedByte then m else (a, b) :: m)
    else (k, c) :: Memory.write m a b

/-- The canonical form above address bound `lo`: addresses at least `lo`, below 2^64 and strictly rising, and no
entry equal to `unlistedByte`. -/
def Memory.wfFrom : Nat → Memory → Bool
  | _, [] => true
  | lo, (k, b) :: m => decide (lo ≤ k) && decide (k < 2 ^ 64) && (b != unlistedByte) && Memory.wfFrom (k + 1) m

/-- The canonical form of data memory: equal memories are equal data. -/
def Memory.wf (m : Memory) : Bool := Memory.wfFrom 0 m

/-- `MemRead(a, n)`: the bytes at `a` to `a + n - 1`, in address order (00_scope.md R14). -/
def readBytes (m : Memory) (a n : Nat) : List Lane := (List.range n).map fun j => m.read (a + j)

/-- `MemWrite(a, n, bytes)`: byte k of the list goes to `a + k` (00_scope.md R14). -/
def writeBytes : Memory → Nat → List Lane → Memory
  | m, _, [] => m
  | m, a, b :: bs => writeBytes (m.write a b) (a + 1) bs

/-- The state with its data memory replaced: what a store leaves of everything else. -/
def setMem (s : State) (m : Memory) : State := { s with mem := m }

/-- `VALID(a, kind)` (00_scope.md R9, 20_memory.md R64): some region holds the byte and permits the kind. -/
def validByte (p : Platform) (a : Nat) (k : AccessKind) : Bool :=
  p.regions.any fun r => decide (r.base ≤ a) && decide (a < r.base + r.size) &&
    match k with
    | .read => r.readable
    | .write => r.writable

/-- PAGE_SIZE, a power of two that is at least 16 (00_scope.md R9). -/
def pageSize (p : Platform) : Nat := 16 * 2 ^ p.pageShift

/-- Bytes `a` and `a + 15` exist and lie in one page (20_memory.md R70). -/
def samePage (p : Platform) (a : Nat) : Bool :=
  decide (a + 15 ≤ 2 ^ 64 - 1) && decide (a / pageSize p = (a + 15) / pageSize p)

/-- The access check of 20_memory.md R64 for `len` bytes at `a`. A footprint of length 0 is not checked. One that wraps
records its base address; otherwise the lowest byte that is not VALID is recorded. -/
def checkAccess (s : State) (a : Scalar) (len : Nat) (k : AccessKind) : Except Raised Unit :=
  if len = 0 then .ok ()
  else if 2 ^ 64 - 1 < a.toNat + len - 1 then .error ⟨.memoryFault, a⟩
  else
    match (List.range len).find? fun j => !validByte s.platform (a.toNat + j) k with
    | some j => .error ⟨.memoryFault, BitVec.ofNat 64 (a.toNat + j)⟩
    | none => .ok ()

/-- The alignment rule of VLDA and VSTA (20_memory.md R65). -/
def requireAligned (a : Scalar) : Except Raised Unit :=
  if a.toNat % 16 = 0 then .ok () else .error ⟨.misalignedAccess, a⟩

/-- The number of bytes a partial load of `k` lanes at `a` reads (20_memory.md R70). -/
def partialReadLength (p : Platform) (a k : Nat) : Nat :=
  if k = 0 then 0
  else if k = 16 ∨ (p.overread = true ∧ samePage p a = true) then 16
  else k

/-! ## Other operand checks -/

/-- The count of VSHL and VSAR, or `ShiftCountRange` (42_lane_arith.md R186, R187, 60_exceptions.md R284). -/
def shiftCount (c : Scalar) : Except Raised Nat :=
  if c.toInt < 0 ∨ 7 < c.toInt then .error ⟨.shiftCountRange, 0⟩ else .ok c.toInt.toNat

/-- The mask check (43_boolean_select.md R211, 60_exceptions.md R285). -/
def requireMask (m : Vec) : Except Raised Unit :=
  if isBoolVec m then .ok () else .error ⟨.maskNotBoolean, 0⟩

/-! ## Fault entry, and reset, the only way out of a fault -/

/-- STATUS.FAULT, which the output line FAULT_OUT equals at all times (10_state.md R37, 60_exceptions.md R293). -/
def faultOut (s : State) : Bool := s.status.getLsbD 0

/-- STATUS.CAUSE, bits 7:4 (10_state.md R37). -/
def statusCause (s : State) : BitVec 4 := s.status.extractLsb' 4 4

/-- The word of the stream at `cix`, or 0 when it is absent (10_state.md R40). -/
def firstWord (s : State) : Word := s.stream.getD s.cix 0

/-- Fault entry (60_exceptions.md R290): the four status registers are written and nothing else changes. FAULT_CIX is
the low 64 bits of `cix` (DEDUCED from 10_state.md R34 and R38, log entry 11). -/
def enterFault (s : State) (c : Cause) (addr : Scalar) : State :=
  { s with
    status := (BitVec.ofNat 32 (causeCode c) <<< 4) ||| 1#32
    faultCix := BitVec.ofNat 64 s.cix
    faultAddr := addr
    faultWord := firstWord s }

/-- Reset (70_reset_and_hazards.md R311), which alone clears a fault (60_exceptions.md R292; there is no return from
one). Every register becomes unwritten; memory and the platform are not changed. A reset abandons the run (R313): no
stream is left to run (DEDUCED, log entry 5). -/
def resetBlock (s : State) : State :=
  { State.reset with mem := s.mem, platform := s.platform }

/-! ## Completing a command -/

/-- `cix <- cix + k` (10_state.md R35). -/
def advance (s : State) (k : Nat) : State := { s with cix := s.cix + k }

/-- The end of every command of `k` words run in state `s`: its writes take effect and `cix` advances, or the fault it
raised is entered in `s`, with nothing else written (70_reset_and_hazards.md R318, 60_exceptions.md R291). -/
def complete (k : Nat) (s : State) : Except Raised State → Outcome State Fault Refusal
  | .ok t => .next (advance t k)
  | .error f => .next (enterFault s f.cause f.addr)

/-! ## The shapes commands share

Each reads all its registers first, in the order of the rule's pseudocode, then checks, then writes
(60_exceptions.md R289, R291). -/

/-- v[d] from v[a]. -/
def vecUnary (f : Vec → Vec) (d a : VReg) (s : State) : Except Raised State := do
  let p ← readV s a
  return setV s d (f p)

/-- v[d] from v[a] and v[b]. -/
def vecBinary (f : Vec → Vec → Vec) (d a b : VReg) (s : State) : Except Raised State := do
  let p ← readV s a
  let q ← readV s b
  return setV s d (f p q)

/-- v[d] from v[a] and the scalar x[b]. -/
def vecScalar (f : Vec → Scalar → Vec) (d a : VReg) (b : XReg) (s : State) : Except Raised State := do
  let p ← readV s a
  let n ← readX s b
  return setV s d (f p n)

/-- v[d] from v[a] and the shift count x[b], which must be 0 to 7. -/
def vecShift (f : Nat → Vec → Vec) (d a : VReg) (b : XReg) (s : State) : Except Raised State := do
  let p ← readV s a
  let n ← readX s b
  let c ← shiftCount n
  return setV s d (f c p)

/-- v[d] from v[a], v[b] and the mask v[c], which must be a boolean lane vector. -/
def vecMasked (f : Vec → Vec → Vec → Vec) (d a b c : VReg) (s : State) : Except Raised State := do
  let p ← readV s a
  let q ← readV s b
  let m ← readV s c
  let _ ← requireMask m
  return setV s d (f p q m)

/-- x[d] from v[a]. -/
def vecToScalar (f : Vec → Scalar) (d : XReg) (a : VReg) (s : State) : Except Raised State := do
  let p ← readV s a
  return setX s d (f p)

/-- Load: the access check on `len` bytes at `a`, then v[d] gets the first `k` of them, its other lanes 0
(40_bitregister128.md R121, 41_lane_construct_memory.md R154). -/
def loadLanes (d : VReg) (a : Scalar) (len k : Nat) (s : State) : Except Raised State := do
  let _ ← checkAccess s a len .read
  let bytes := readBytes s.mem a.toNat len
  return setV s d (lanes fun i => if i < k then bytes.getD i 0 else 0)

/-- Store: the access check on `k` bytes at `a`, then the first `k` lanes of `val` go there
(40_bitregister128.md R122, 41_lane_construct_memory.md R155). -/
def storeLanes (val : Vec) (a : Scalar) (k : Nat) (s : State) : Except Raised State := do
  let _ ← checkAccess s a k .write
  return setMem s (writeBytes s.mem a.toNat (laneBytes val k))

/-! ## The command stream -/

/-- The words of the stream from `cix` on, from which the next command is decoded (70_reset_and_hazards.md R318). -/
def fetchWords (s : State) : List Word := s.stream.drop s.cix

/-- What the block is doing (60_exceptions.md R300, 70_reset_and_hazards.md R321 to R323). -/
inductive Phase where
  /-- A run was started and has not stopped: FAULT = 0 and `cix` < L. -/
  | running
  /-- No run is going on and no fault is recorded: `cix` = L. -/
  | idle
  /-- A fault is recorded. -/
  | stoppedByFault
  /-- FAULT = 0 and `cix` > L, which does not happen (10_state.md R34). -/
  | outside
deriving DecidableEq, Repr

/-- The phase of the block in a state. -/
def phase (s : State) : Phase :=
  if faultOut s then .stoppedByFault
  else if s.cix < s.stream.length then .running
  else if s.cix = s.stream.length then .idle
  else .outside

/-- A stream with the words `ws` at index `n`, over what stood there (words before it that are missing are 0). -/
def placeWords : Nat → List Word → List Word → List Word
  | 0, c, ws => ws ++ c.drop ws.length
  | n + 1, [], ws => 0 :: placeWords n [] ws
  | n + 1, w :: c, ws => w :: placeWords n c ws

end Sys2Proof.Machine
end

