-- ==== Sys2Proof/Machine/BitRegister.lean ====
section
/-! DEFINITION. The BitRegister128 unit: zero, full loads and stores, bitwise logic, all-ones and any-ones tests
(spec/40_bitregister128.md R120 to R131). -/

namespace Sys2Proof.Machine

open Host (Outcome)

/-- VZERO (40_bitregister128.md R120). -/
def execVzero (d : VReg) (s : State) : Outcome State Fault Refusal :=
  complete 1 s (.ok (setV s d 0))

/-- VLD: no alignment requirement (40_bitregister128.md R121). -/
def execVld (d : VReg) (a : XReg) (s : State) : Outcome State Fault Refusal :=
  complete 1 s do
    let addr ← readX s a
    loadLanes d addr 16 16 s

/-- VST: the data register is read before the address register (40_bitregister128.md R122). -/
def execVst (a : VReg) (b : XReg) (s : State) : Outcome State Fault Refusal :=
  complete 1 s do
    let val ← readV s a
    let addr ← readX s b
    storeLanes val addr 16 s

/-- VLDA: alignment is checked before validity (40_bitregister128.md R123, 60_exceptions.md R289). -/
def execVlda (d : VReg) (a : XReg) (s : State) : Outcome State Fault Refusal :=
  complete 1 s do
    let addr ← readX s a
    let _ ← requireAligned addr
    loadLanes d addr 16 16 s

/-- VSTA: alignment is checked before validity (40_bitregister128.md R124, 60_exceptions.md R289). -/
def execVsta (a : VReg) (b : XReg) (s : State) : Outcome State Fault Refusal :=
  complete 1 s do
    let val ← readV s a
    let addr ← readX s b
    let _ ← requireAligned addr
    storeLanes val addr 16 s

/-- VAND (40_bitregister128.md R125). -/
def execVand (d a b : VReg) (s : State) : Outcome State Fault Refusal :=
  complete 1 s (vecBinary (fun p q => p &&& q) d a b s)

/-- VOR (40_bitregister128.md R126). -/
def execVor (d a b : VReg) (s : State) : Outcome State Fault Refusal :=
  complete 1 s (vecBinary (fun p q => p ||| q) d a b s)

/-- VXOR (40_bitregister128.md R127). -/
def execVxor (d a b : VReg) (s : State) : Outcome State Fault Refusal :=
  complete 1 s (vecBinary (fun p q => p ^^^ q) d a b s)

/-- VANDN: the second operand is complemented (40_bitregister128.md R128). -/
def execVandn (d a b : VReg) (s : State) : Outcome State Fault Refusal :=
  complete 1 s (vecBinary (fun p q => p &&& ~~~q) d a b s)

/-- VNOT (40_bitregister128.md R129). -/
def execVnot (d a : VReg) (s : State) : Outcome State Fault Refusal :=
  complete 1 s (vecUnary (fun p => ~~~p) d a s)

/-- VALL (40_bitregister128.md R130). -/
def execVall (d : XReg) (a : VReg) (s : State) : Outcome State Fault Refusal :=
  complete 1 s (vecToScalar (fun p => boolScalar (isAllOnes p)) d a s)

/-- VANY (40_bitregister128.md R131). -/
def execVany (d : XReg) (a : VReg) (s : State) : Outcome State Fault Refusal :=
  complete 1 s (vecToScalar (fun p => boolScalar (isAnyOne p)) d a s)

end Sys2Proof.Machine
end

