-- ==== Sys2Proof/Machine/BooleanSelect.lean ====
section
/-! DEFINITION. Boolean lane vectors, select, conditional arithmetic and the lane comparators (spec/43_boolean_select.md R210
to R217). -/

namespace Sys2Proof.Machine

open Host (Outcome)

/-- VBOOLS (43_boolean_select.md R210). -/
def execVbools (d : VReg) (imm : BitVec 16) (s : State) : Outcome State Fault Refusal :=
  complete 1 s (.ok (setV s d (boolVec imm)))

/-- VSEL (43_boolean_select.md R212). -/
def execVsel (d a b c : VReg) (s : State) : Outcome State Fault Refusal :=
  complete 1 s (vecMasked (fun p q m => selectBits m p q) d a b c s)

/-- VIFADD (43_boolean_select.md R213). -/
def execVifadd (d a b c : VReg) (s : State) : Outcome State Fault Refusal :=
  complete 1 s (vecMasked (fun p q m => zipLanes laneAdd p (q &&& m)) d a b c s)

/-- VIFSUB (43_boolean_select.md R214). -/
def execVifsub (d a b c : VReg) (s : State) : Outcome State Fault Refusal :=
  complete 1 s (vecMasked (fun p q m => zipLanes laneSub p (q &&& m)) d a b c s)

/-- VIFMUL: where the mask is false the lane is that of v[a] (43_boolean_select.md R215). -/
def execVifmul (d a b c : VReg) (s : State) : Outcome State Fault Refusal :=
  complete 1 s (vecMasked (fun p q m => selectBits m (zipLanes laneMul p q) p) d a b c s)

/-- VCMPEQ (43_boolean_select.md R216). -/
def execVcmpeq (d a b : VReg) (s : State) : Outcome State Fault Refusal :=
  complete 1 s (vecBinary (zipLanes laneCmpEq) d a b s)

/-- VCMPGT (43_boolean_select.md R217). -/
def execVcmpgt (d a b : VReg) (s : State) : Outcome State Fault Refusal :=
  complete 1 s (vecBinary (zipLanes laneCmpGt) d a b s)

end Sys2Proof.Machine
end

