-- ==== Sys2Proof/Machine/LaneArith.lean ====
section
/-! DEFINITION. Lane arithmetic, whole-vector equality and shifts (spec/42_lane_arith.md R180 to R187). -/

namespace Sys2Proof.Machine

open Host (Outcome)

/-- VADD (42_lane_arith.md R180). -/
def execVadd (d a b : VReg) (s : State) : Outcome State Fault Refusal :=
  complete 1 s (vecBinary (zipLanes laneAdd) d a b s)

/-- VSUB (42_lane_arith.md R181). -/
def execVsub (d a b : VReg) (s : State) : Outcome State Fault Refusal :=
  complete 1 s (vecBinary (zipLanes laneSub) d a b s)

/-- VNEG (42_lane_arith.md R182). -/
def execVneg (d a : VReg) (s : State) : Outcome State Fault Refusal :=
  complete 1 s (vecUnary (mapLanes laneNeg) d a s)

/-- VMUL (42_lane_arith.md R183). -/
def execVmul (d a b : VReg) (s : State) : Outcome State Fault Refusal :=
  complete 1 s (vecBinary (zipLanes laneMul) d a b s)

/-- VEQ: one truth value for the whole vector (42_lane_arith.md R184). -/
def execVeq (d : XReg) (a b : VReg) (s : State) : Outcome State Fault Refusal :=
  complete 1 s do
    let p ← readV s a
    let q ← readV s b
    return setX s d (boolScalar (isEqual p q))

/-- VSHL (42_lane_arith.md R186). -/
def execVshl (d a : VReg) (b : XReg) (s : State) : Outcome State Fault Refusal :=
  complete 1 s (vecShift (fun c p => mapLanes (laneShl c) p) d a b s)

/-- VSAR (42_lane_arith.md R187). -/
def execVsar (d a : VReg) (b : XReg) (s : State) : Outcome State Fault Refusal :=
  complete 1 s (vecShift (fun c p => mapLanes (laneSar c) p) d a b s)

end Sys2Proof.Machine
end

