-- ==== Sys2Proof/Machine/LaneConstruct.lean ====
section
/-! DEFINITION. Construction, partial load and store, cutoff, insert and extract (spec/41_lane_construct_memory.md R150 to
R158). -/

namespace Sys2Proof.Machine

open Host (Outcome)

/-- VBCAST (41_lane_construct_memory.md R150). -/
def execVbcast (d : VReg) (a : XReg) (s : State) : Outcome State Fault Refusal :=
  complete 1 s do
    let n ← readX s a
    return setV s d (lanes fun _ => scalarByte n)

/-- VLIT: five words long; no register is read (41_lane_construct_memory.md R151). -/
def execVlit (d : VReg) (imm : BitVec 128) (s : State) : Outcome State Fault Refusal :=
  complete 5 s (.ok (setV s d imm))

/-- VMOV: all 128 bits, no check of the boolean-lane invariant (41_lane_construct_memory.md R152). -/
def execVmov (d a : VReg) (s : State) : Outcome State Fault Refusal :=
  complete 1 s (vecUnary (fun p => p) d a s)

/-- VLDP: both registers are read even when no byte is (41_lane_construct_memory.md R154). -/
def execVldp (d : VReg) (a b : XReg) (s : State) : Outcome State Fault Refusal :=
  complete 1 s do
    let addr ← readX s a
    let n ← readX s b
    let k := clamp16 n.toInt
    loadLanes d addr (partialReadLength s.platform addr.toNat k) k s

/-- VSTP: exactly the first k lanes are stored (41_lane_construct_memory.md R155). -/
def execVstp (a : VReg) (b c : XReg) (s : State) : Outcome State Fault Refusal :=
  complete 1 s do
    let val ← readV s a
    let addr ← readX s b
    let n ← readX s c
    storeLanes val addr (clamp16 n.toInt) s

/-- VCUT (41_lane_construct_memory.md R156). -/
def execVcut (d a : VReg) (b : XReg) (s : State) : Outcome State Fault Refusal :=
  complete 1 s (vecScalar (fun p n => cutLanes (clamp16 n.toInt) p) d a b s)

/-- VINS (41_lane_construct_memory.md R157). -/
def execVins (d a : VReg) (b c : XReg) (s : State) : Outcome State Fault Refusal :=
  complete 1 s do
    let p ← readV s a
    let j ← readX s b
    let n ← readX s c
    return setV s d (insertLane (laneIndex j) (scalarByte n) p)

/-- VEXT: the lane is sign-extended (41_lane_construct_memory.md R158). -/
def execVext (d : XReg) (a : VReg) (b : XReg) (s : State) : Outcome State Fault Refusal :=
  complete 1 s do
    let p ← readV s a
    let j ← readX s b
    return setX s d ((lane p (laneIndex j)).signExtend 64)

end Sys2Proof.Machine
end

