-- ==== Sys2Proof/Machine/ReduceSaturate.lean ====
section
/-! DEFINITION. Horizontal sums, saturating arithmetic, minimum, maximum, absolute values and rotate
(spec/44_reduce_saturate.md R240 to R248). -/

namespace Sys2Proof.Machine

open Host (Outcome)

/-- VHADD: the 8-bit wrapped sum, sign-extended (44_reduce_saturate.md R240, 90_conflicts.md C6). -/
def execVhadd (d : XReg) (a : VReg) (s : State) : Outcome State Fault Refusal :=
  complete 1 s (vecToScalar (fun p => (wrap8 (laneSum p)).signExtend 64) d a s)

/-- VHADDX: the exact sum (44_reduce_saturate.md R241, 90_conflicts.md C3). -/
def execVhaddx (d : XReg) (a : VReg) (s : State) : Outcome State Fault Refusal :=
  complete 1 s (vecToScalar (fun p => (BitVec.ofInt 16 (laneSum p)).signExtend 64) d a s)

/-- VADDS (44_reduce_saturate.md R242). -/
def execVadds (d a b : VReg) (s : State) : Outcome State Fault Refusal :=
  complete 1 s (vecBinary (zipLanes laneAddSat) d a b s)

/-- VSUBS (44_reduce_saturate.md R243). -/
def execVsubs (d a b : VReg) (s : State) : Outcome State Fault Refusal :=
  complete 1 s (vecBinary (zipLanes laneSubSat) d a b s)

/-- VMIN (44_reduce_saturate.md R244). -/
def execVmin (d a b : VReg) (s : State) : Outcome State Fault Refusal :=
  complete 1 s (vecBinary (zipLanes laneMin) d a b s)

/-- VMAX (44_reduce_saturate.md R245). -/
def execVmax (d a b : VReg) (s : State) : Outcome State Fault Refusal :=
  complete 1 s (vecBinary (zipLanes laneMax) d a b s)

/-- VABS (44_reduce_saturate.md R246). -/
def execVabs (d a : VReg) (s : State) : Outcome State Fault Refusal :=
  complete 1 s (vecUnary (mapLanes laneAbs) d a s)

/-- VABSS (44_reduce_saturate.md R247, 90_conflicts.md C2). -/
def execVabss (d a : VReg) (s : State) : Outcome State Fault Refusal :=
  complete 1 s (vecUnary (mapLanes laneAbsSat) d a s)

/-- VROTL: every amount is accepted (44_reduce_saturate.md R248). -/
def execVrotl (d a : VReg) (b : XReg) (s : State) : Outcome State Fault Refusal :=
  complete 1 s (vecScalar (fun p n => mapLanes (laneRotl (rotateAmount n)) p) d a b s)

end Sys2Proof.Machine
end

