-- ==== Sys2Proof/Machine/ScalarInterface.lean ====
section
/-! DEFINITION. The one scalar command of the command interface (spec/45_scalar_interface.md R270, R271). -/

namespace Sys2Proof.Machine

open Host (Outcome)

/-- XLI: three words long; no register is read (45_scalar_interface.md R270). -/
def execXli (d : XReg) (imm : BitVec 64) (s : State) : Outcome State Fault Refusal :=
  complete 3 s (.ok (setX s d imm))

end Sys2Proof.Machine
end

