-- ==== Sys2Proof/Machine/Dispatch.lean ====
section
/-! DEFINITION. One arm per command: the meaning of every instruction of the opcode table. -/

namespace Sys2Proof.Machine

/-- Executes one command in a state (spec/70_reset_and_hazards.md R318): its effect with `cix` advanced, or the fault
it raises, entered. -/
def exec (i : Instr) (s : State) : Host.Outcome State Fault Refusal :=
  match i with
  | .vzero d => Sys2Proof.Machine.execVzero d s
  | .vmov d a => Sys2Proof.Machine.execVmov d a s
  | .vbcast d a => Sys2Proof.Machine.execVbcast d a s
  | .vlit d imm => Sys2Proof.Machine.execVlit d imm s
  | .vbools d imm => Sys2Proof.Machine.execVbools d imm s
  | .xli d imm => Sys2Proof.Machine.execXli d imm s
  | .vld d a => Sys2Proof.Machine.execVld d a s
  | .vst a b => Sys2Proof.Machine.execVst a b s
  | .vlda d a => Sys2Proof.Machine.execVlda d a s
  | .vsta a b => Sys2Proof.Machine.execVsta a b s
  | .vldp d a b => Sys2Proof.Machine.execVldp d a b s
  | .vstp a b c => Sys2Proof.Machine.execVstp a b c s
  | .vand d a b => Sys2Proof.Machine.execVand d a b s
  | .vor d a b => Sys2Proof.Machine.execVor d a b s
  | .vxor d a b => Sys2Proof.Machine.execVxor d a b s
  | .vandn d a b => Sys2Proof.Machine.execVandn d a b s
  | .vnot d a => Sys2Proof.Machine.execVnot d a s
  | .vall d a => Sys2Proof.Machine.execVall d a s
  | .vany d a => Sys2Proof.Machine.execVany d a s
  | .vadd d a b => Sys2Proof.Machine.execVadd d a b s
  | .vsub d a b => Sys2Proof.Machine.execVsub d a b s
  | .vneg d a => Sys2Proof.Machine.execVneg d a s
  | .vmul d a b => Sys2Proof.Machine.execVmul d a b s
  | .vshl d a b => Sys2Proof.Machine.execVshl d a b s
  | .vsar d a b => Sys2Proof.Machine.execVsar d a b s
  | .vrotl d a b => Sys2Proof.Machine.execVrotl d a b s
  | .veq d a b => Sys2Proof.Machine.execVeq d a b s
  | .vcut d a b => Sys2Proof.Machine.execVcut d a b s
  | .vins d a b c => Sys2Proof.Machine.execVins d a b c s
  | .vext d a b => Sys2Proof.Machine.execVext d a b s
  | .vsel d a b c => Sys2Proof.Machine.execVsel d a b c s
  | .vifadd d a b c => Sys2Proof.Machine.execVifadd d a b c s
  | .vifsub d a b c => Sys2Proof.Machine.execVifsub d a b c s
  | .vifmul d a b c => Sys2Proof.Machine.execVifmul d a b c s
  | .vhadd d a => Sys2Proof.Machine.execVhadd d a s
  | .vhaddx d a => Sys2Proof.Machine.execVhaddx d a s
  | .vadds d a b => Sys2Proof.Machine.execVadds d a b s
  | .vsubs d a b => Sys2Proof.Machine.execVsubs d a b s
  | .vmin d a b => Sys2Proof.Machine.execVmin d a b s
  | .vmax d a b => Sys2Proof.Machine.execVmax d a b s
  | .vabs d a => Sys2Proof.Machine.execVabs d a s
  | .vabss d a => Sys2Proof.Machine.execVabss d a s
  | .vcmpeq d a b => Sys2Proof.Machine.execVcmpeq d a b s
  | .vcmpgt d a b => Sys2Proof.Machine.execVcmpgt d a b s

end Sys2Proof.Machine
end

