-- ==== Sys2Proof/Machine/Step.lean ====
section
/-! DEFINITION. One step of the block (spec/70_reset_and_hazards.md R318), and where a command stands for the next step
to fetch it. -/

namespace Sys2Proof.Machine

open Host (Outcome)

/-- One step (70_reset_and_hazards.md R318). While a run is going on it decodes the command at `cix` and executes it; a
command that cannot be decoded enters `IllegalCommand` (60_exceptions.md R282). When the block is not running, because
no run is going on or a fault is recorded, it does nothing (R322, 60_exceptions.md R291; log entry 6). -/
def step (s : State) : Outcome State Fault Refusal :=
  match phase s with
  | .stoppedByFault => .next s
  | .idle => .next s
  | .outside => .fault .cixOutsideStream
  | .running =>
    match decode (fetchWords s) with
    | .ok i => exec i s
    | .error _ => .next (enterFault s .illegalCommand 0)

/-- `s` with the command whose bits are `w` (numbered as the opcode table numbers them) standing at `cix` in the
stream, where the next step fetches it. This stands for the host's load of a stream (log entries 5 and 14). A recorded fault's
FAULT bit is cleared, since a block with a fault recorded runs nothing; nothing else is changed. -/
def State.withFetchWord (s : State) (nbits w : Nat) : State :=
  { s with
    stream := placeWords s.cix s.stream (tableWords nbits w)
    status := s.status &&& ~~~1#32 }

end Sys2Proof.Machine
end

