-- ==== Sys2Proof/Machine/HostPort.lean ====
section
/-! DEFINITION. The host's transactions (spec/70_reset_and_hazards.md R310 to R323): what an agent outside the block can
do to it between steps. None of them is a command and none raises a fault of the block (R316). -/

namespace Sys2Proof.Machine

open Host (Outcome)

/-- One transaction of the host interface (70_reset_and_hazards.md R323). -/
inductive Transaction where
  /-- RESET, any time between commands (R311, R313). -/
  | reset
  /-- WRITE_VREG r, when not running (R316). -/
  | writeVReg (r : VReg) (value : Vec)
  /-- WRITE_XREG r, when not running (R316). -/
  | writeXReg (r : XReg) (value : Scalar)
  /-- READ_VREG r, when not running (R316). -/
  | readVReg (r : VReg)
  /-- READ_XREG r, when not running (R316). -/
  | readXReg (r : XReg)
  /-- READ_CIX, when not running (R316). -/
  | readCix
  /-- READ_STATUS k, answered at any time between commands (10_state.md R41, R323); during a run it shows none of the
  registers (60_exceptions.md R299). -/
  | readStatus (k : Nat)
  /-- START C, when not running (R317). -/
  | start (stream : List Word)
  /-- The line FAULT_OUT, always driven (60_exceptions.md R293). -/
  | faultOut
  /-- The host reads a byte of data memory through the platform, when not running (R316, R320). -/
  | readMemory (addr : Scalar)
  /-- The host writes a byte of data memory through the platform, when not running (R316, R320). -/
  | writeMemory (addr : Scalar) (value : Lane)
deriving DecidableEq, Repr

/-- What a transaction answers to the host. -/
inductive Reply where
  /-- Nothing but that it was done. -/
  | done
  /-- A vector register's value, or that it holds none. -/
  | vector (value : Option Vec)
  /-- A scalar register's value, or that it holds none. -/
  | scalar (value : Option Scalar)
  /-- The command index. -/
  | index (value : Nat)
  /-- A status register, zero-extended to 64 bits where it has 32 (log entry 15). -/
  | status (value : BitVec 64)
  /-- The level of a line. -/
  | line (value : Bool)
  /-- A byte of data memory. -/
  | byte (value : Lane)
deriving DecidableEq, Repr

/-- Status register `k`, zero-extended; a number above 3 is 0 (10_state.md R41). -/
def readStatus (s : State) (k : Nat) : BitVec 64 :=
  if k = 0 then s.status.setWidth 64
  else if k = 1 then s.faultCix
  else if k = 2 then s.faultAddr
  else if k = 3 then s.faultWord.setWidth 64
  else 0

/-- What the host's read port answers for status register `k`. Between runs it is the register. During a run the host
observes no status register (60_exceptions.md R299): the answer is 0 and reads nothing of the state. The registers are
themselves 0 then, because only fault entry writes them and it ends the run (10_state.md R37 to R41), so the answer is
the register's value in every state of the spec (log entry 17). -/
def statusPort (s : State) (k : Nat) : BitVec 64 := if phase s = .running then 0 else readStatus s k

/-- Start of a run (70_reset_and_hazards.md R317): `cix` is 0, the stream is the host's, and every register and byte is
kept. A start while FAULT = 1 changes nothing. -/
def startRun (s : State) (c : List Word) : State :=
  if faultOut s then s else { s with cix := 0, stream := c }

/-- The host writes one byte of data memory (70_reset_and_hazards.md R316). -/
def pokeMemory (s : State) (a : Scalar) (b : Lane) : State := setMem s (Memory.write s.mem a.toNat b)

/-- A transaction the host may make only when the block is not running (70_reset_and_hazards.md R316,
R323). -/
def whenNotRunning (s : State) (t : State) (r : Reply) : Outcome (State × Reply) Fault Refusal :=
  if phase s = .running then .refused .hostWhileRunning else .next (t, r)

/-- One transaction, made between two steps of the block (70_reset_and_hazards.md R323). -/
def hostStep (t : Transaction) (s : State) : Outcome (State × Reply) Fault Refusal :=
  match t with
  | .reset => .next (resetBlock s, .done)
  | .writeVReg r value => whenNotRunning s (setV s r value) .done
  | .writeXReg r value => whenNotRunning s (setX s r value) .done
  | .readVReg r => whenNotRunning s s (.vector (vreg s r))
  | .readXReg r => whenNotRunning s s (.scalar (xreg s r))
  | .readCix => whenNotRunning s s (.index s.cix)
  | .readStatus k => .next (s, .status (statusPort s k))
  | .start c => whenNotRunning s (startRun s c) .done
  | .faultOut => .next (s, .line (faultOut s))
  | .readMemory a => whenNotRunning s s (.byte (Memory.read s.mem a.toNat))
  | .writeMemory a b => whenNotRunning s (pokeMemory s a b) .done

end Sys2Proof.Machine
end

