-- ==== Sys2Proof/Safety.lean ====
section
/-! DEFINITION. What counts as a safe state and a safe run, and the invariant of the machine, in the terms the
statements use. -/

namespace Sys2Proof.Machine

/-- No fault is recorded: STATUS.FAULT = 0 (spec/10_state.md R37). -/
abbrev NoFault (s : State) : Prop := faultOut s = false

/-- The run of the stream has completed (spec/70_reset_and_hazards.md R322). -/
abbrev Completed (s : State) : Prop := NoFault s ∧ s.cix = s.stream.length

/-- The block has stopped: its run completed or a fault is recorded (spec/70_reset_and_hazards.md R321). -/
abbrev Stopped (s : State) : Prop := faultOut s = true ∨ Completed s

/-- All six causes (spec/60_exceptions.md R281). -/
def allCauses : List Cause :=
  [.illegalCommand, .unwrittenRegister, .shiftCountRange, .maskNotBoolean, .misalignedAccess, .memoryFault]

/-- The status registers hold no record: all four are 0 (spec/10_state.md R37 to R40). -/
abbrev NoRecord (s : State) : Prop :=
  s.status = 0 ∧ s.faultCix = 0 ∧ s.faultAddr = 0 ∧ s.faultWord = 0

/-- The status registers hold the record of a fault of cause `c` raised by the command at `cix`
(spec/60_exceptions.md R281, R290, R291): FAULT_ADDR is 0 unless the cause is MisalignedAccess, whose address is no
multiple of 16, or MemoryFault. -/
abbrev RecordOf (s : State) (c : Cause) : Prop :=
  s.status = BitVec.ofNat 32 (16 * causeCode c + 1) ∧ s.faultCix = BitVec.ofNat 64 s.cix ∧
  s.faultWord = s.stream.getD s.cix 0 ∧ s.cix < s.stream.length ∧
  (c ≠ .misalignedAccess → c ≠ .memoryFault → s.faultAddr = 0) ∧
  (c = .misalignedAccess → s.faultAddr.toNat % 16 ≠ 0)

/-- The invariant of the machine: data memory is in its canonical form; `cix` is in [0, L] (spec/10_state.md R34); the
status registers hold no record, or the record of one of the six causes raised by the command at `cix`, so that
reserved bits of STATUS are 0 and CAUSE is 0 or legal (R37). -/
abbrev BlockInvariant (s : State) : Prop :=
  Memory.wf s.mem = true ∧ s.cix ≤ s.stream.length ∧ (NoRecord s ∨ ∃ c ∈ allCauses, RecordOf s c)

end Sys2Proof.Machine
end

