-- ==== Sys2Proof/Certificates/Slice0/Obligations.lean ====
section
/-! DEFINITION. The statements for the provers. The helpers under `Sys2Proof.Claims` say what a rule of spec/ asks for
in the rule's own terms (integers, bits and byte addresses), apart from the functions the meanings are made of. -/

namespace Sys2Proof.Claims

open Sys2Proof.Machine

/-! ## Values, read as spec/00_scope.md R11 and R12 read them -/

/-- Lane i of a vector: its bits 8i+7 down to 8i (00_scope.md R11). -/
def byteLane (v : Vec) (i : Nat) : BitVec 8 := v.extractLsb' (8 * i) 8

/-- `r` is `wrap8(z)`: the pattern whose unsigned value is z mod 256 (00_scope.md R12). -/
def IsWrap8 (z : Int) (r : BitVec 8) : Prop := (r.toNat : Int) = z % 256

/-- `r` is `sat8(z)` (00_scope.md R12). -/
def IsSat8 (z : Int) (r : BitVec 8) : Prop := r.toInt = if z < -128 then -128 else if 127 < z then 127 else z

/-- `clamp16(n)` (00_scope.md R12, 41_lane_construct_memory.md R153). -/
def clampCount (n : Int) : Nat := (min 16 (max 0 n)).toNat

/-- Every lane is 0x00 or 0xFF (00_scope.md R15). -/
abbrev BooleanVector (m : Vec) : Prop := ∀ i < 16, byteLane m i = 0x00 ∨ byteLane m i = 0xFF

/-- The exact sum of the sixteen signed lanes (44_reduce_saturate.md R240). -/
def laneTotal (p : Vec) : Int := ∑ i ∈ Finset.range 16, (byteLane p i).toInt

/-! ## Words, written field by field from the formats of spec/30_encoding.md R91, R92, R95 -/

/-- Format R: OP, D, A, B, C and ten zero bits, from the highest bit down. -/
def firstWordR (op : BitVec 6) (d a b c : Fin 16) : BitVec 32 :=
  op ++ BitVec.ofFin (w := 4) d ++ BitVec.ofFin (w := 4) a ++ BitVec.ofFin (w := 4) b ++ BitVec.ofFin (w := 4) c ++ 0#10

/-- Format I: OP, D, six zero bits and IMM16. -/
def firstWordI (op : BitVec 6) (d : Fin 16) (imm : BitVec 16) : BitVec 32 :=
  op ++ BitVec.ofFin (w := 4) d ++ 0#6 ++ imm

/-! ## What a command leaves of the state -/

/-- The four status registers are unchanged. -/
def StatusKept (s t : State) : Prop :=
  t.status = s.status ∧ t.faultCix = s.faultCix ∧ t.faultAddr = s.faultAddr ∧ t.faultWord = s.faultWord

/-- The parameters of the step are unchanged (10_state.md R44). -/
def ParametersKept (s t : State) : Prop := t.stream = s.stream ∧ t.platform = s.platform

/-- Every byte of memory reads as before. -/
def MemoryKept (s t : State) : Prop := ∀ a, Memory.read t.mem a = Memory.read s.mem a

/-- Nothing but vector register `d` and the command index has changed. -/
def OnlyVector (d : VReg) (s t : State) : Prop :=
  (∀ r, r ≠ d → vreg t r = vreg s r) ∧ (∀ r, xreg t r = xreg s r) ∧ StatusKept s t ∧ MemoryKept s t ∧
  ParametersKept s t

/-- Nothing but scalar register `d` and the command index has changed. -/
def OnlyScalar (d : XReg) (s t : State) : Prop :=
  (∀ r, vreg t r = vreg s r) ∧ (∀ r, r ≠ d → xreg t r = xreg s r) ∧ StatusKept s t ∧ MemoryKept s t ∧
  ParametersKept s t

/-- The command completes as `n` words: it writes to v[d] a value that `good` describes, `cix` advances by `n`, and
nothing else changes. -/
def GivesVector (i : Instr) (s : State) (n : Nat) (d : VReg) (good : Vec → Prop) : Prop :=
  ∃ t r, exec i s = .next t ∧ vreg t d = some r ∧ good r ∧ t.cix = s.cix + n ∧ OnlyVector d s t

/-- The command completes as `n` words: it writes to x[d] a value that `good` describes, `cix` advances by `n`, and
nothing else changes. -/
def GivesScalar (i : Instr) (s : State) (n : Nat) (d : XReg) (good : BitVec 64 → Prop) : Prop :=
  ∃ t r, exec i s = .next t ∧ xreg t d = some r ∧ good r ∧ t.cix = s.cix + n ∧ OnlyScalar d s t

/-- The command completes as one word: lanes 0 to k-1 of `val` stand at `a` to `a + k - 1`, every other byte reads as
before, every register, status register and parameter is unchanged, and `cix` advances by 1. -/
def StoresLanes (i : Instr) (s : State) (val : Vec) (a k : Nat) : Prop :=
  ∃ t, exec i s = .next t ∧
    (∀ c, Memory.read t.mem c = if a ≤ c ∧ c < a + k then byteLane val (c - a) else Memory.read s.mem c) ∧
    (∀ r, vreg t r = vreg s r) ∧ (∀ r, xreg t r = xreg s r) ∧ StatusKept s t ∧ ParametersKept s t ∧
    t.cix = s.cix + 1

/-- The state after fault entry in `s` with cause code `code` and recorded address `addr`
(60_exceptions.md R290): nothing but the four status registers differs from `s`. -/
def faultState (s : State) (code : Nat) (addr : BitVec 64) : State :=
  { s with
    status := BitVec.ofNat 32 (16 * code + 1)
    faultCix := BitVec.ofNat 64 s.cix
    faultAddr := addr
    faultWord := s.stream.getD s.cix 0 }

/-- The command raises the fault with cause code `code` and recorded address `addr`. -/
def Raises (i : Instr) (s : State) (code : Nat) (addr : BitVec 64) : Prop :=
  exec i s = .next (faultState s code addr)

/-! ## Memory footprints (20_memory.md R64) -/

/-- The `k` bytes at `a` exist and are VALID for the kind. -/
abbrev Accessible (s : State) (a k : Nat) (kind : AccessKind) : Prop :=
  a + k ≤ 2 ^ 64 ∧ ∀ j < k, validByte s.platform (a + j) kind = true

/-- The `k` bytes at `a` exist, and byte `a + j` is the lowest of them that is not VALID for the kind. -/
abbrev LowestInvalid (s : State) (a k j : Nat) (kind : AccessKind) : Prop :=
  a + k ≤ 2 ^ 64 ∧ j < k ∧ validByte s.platform (a + j) kind = false ∧
  ∀ i < j, validByte s.platform (a + i) kind = true

/-- Where one of the `k` bytes at `addr` is not VALID, the command raises `MemoryFault` and records the lowest such byte
(20_memory.md R64). -/
def ChecksValidity (i : Instr) (s : State) (addr : BitVec 64) (k : Nat) (kind : AccessKind) : Prop :=
  ∀ j, LowestInvalid s addr.toNat k j kind → Raises i s 6 (BitVec.ofNat 64 (addr.toNat + j))

/-- The access check of `k` bytes at `addr` (20_memory.md R64): where the footprint wraps, the command raises
`MemoryFault` and records its base address; and it checks that every byte is VALID. -/
def ChecksAccess (i : Instr) (s : State) (addr : BitVec 64) (k : Nat) (kind : AccessKind) : Prop :=
  (2 ^ 64 < addr.toNat + k → Raises i s 6 addr) ∧ ChecksValidity i s addr k kind

/-- The number of bytes a partial load of `k` lanes at `a` reads (20_memory.md R70). -/
def partialFootprint (s : State) (a k : Nat) : Nat :=
  if k = 0 then 0
  else if k = 16 then 16
  else if s.platform.overread = true ∧ a + 15 < 2 ^ 64 ∧
      a / (16 * 2 ^ s.platform.pageShift) = (a + 15) / (16 * 2 ^ s.platform.pageShift) then 16
  else k

/-! ## The rules that several commands share -/

/-- A command that reads v[a] and writes v[d]: its encoding, its result and its fault. -/
def UnaryRule (op : BitVec 6) (mk : VReg → VReg → Instr) (good : Vec → Vec → Prop) : Prop :=
  ∀ (d a : VReg) (s : State),
    encode (mk d a) = [firstWordR op d a 0 0] ∧
    (∀ p, vreg s a = some p → GivesVector (mk d a) s 1 d (good p)) ∧
    (vreg s a = none → Raises (mk d a) s 2 0)

/-- A command that reads v[a] and v[b] and writes v[d]: its encoding, its result and its fault. -/
def BinaryRule (op : BitVec 6) (mk : VReg → VReg → VReg → Instr) (good : Vec → Vec → Vec → Prop) : Prop :=
  ∀ (d a b : VReg) (s : State),
    encode (mk d a b) = [firstWordR op d a b 0] ∧
    (∀ p q, vreg s a = some p → vreg s b = some q → GivesVector (mk d a b) s 1 d (good p q)) ∧
    ((vreg s a = none ∨ vreg s b = none) → Raises (mk d a b) s 2 0)

/-- A command that reads v[a] and x[b] and writes v[d], any scalar being accepted. -/
def ScalarOperandRule (op : BitVec 6) (mk : VReg → VReg → XReg → Instr) (good : Vec → BitVec 64 → Vec → Prop) : Prop :=
  ∀ (d a : VReg) (b : XReg) (s : State),
    encode (mk d a b) = [firstWordR op d a b 0] ∧
    (∀ p n, vreg s a = some p → xreg s b = some n → GivesVector (mk d a b) s 1 d (good p n)) ∧
    ((vreg s a = none ∨ xreg s b = none) → Raises (mk d a b) s 2 0)

/-- A shift of v[a] by the signed count x[b], 0 to 7; any other count raises `ShiftCountRange`. -/
def ShiftRule (op : BitVec 6) (mk : VReg → VReg → XReg → Instr) (good : Nat → BitVec 8 → BitVec 8 → Prop) : Prop :=
  ∀ (d a : VReg) (b : XReg) (s : State),
    encode (mk d a b) = [firstWordR op d a b 0] ∧
    (∀ p n, vreg s a = some p → xreg s b = some n →
      (0 ≤ n.toInt ∧ n.toInt ≤ 7 → GivesVector (mk d a b) s 1 d fun r =>
        ∀ i < 16, good n.toInt.toNat (byteLane p i) (byteLane r i)) ∧
      (n.toInt < 0 ∨ 7 < n.toInt → Raises (mk d a b) s 3 0)) ∧
    ((vreg s a = none ∨ xreg s b = none) → Raises (mk d a b) s 2 0)

/-- A command with the mask v[c]: lane by lane `good` relates whether the mask is true, the lanes of v[a] and v[b], and
the result; a mask that is not a boolean lane vector raises `MaskNotBoolean`. -/
def MaskedRule (op : BitVec 6) (mk : VReg → VReg → VReg → VReg → Instr)
    (good : Prop → BitVec 8 → BitVec 8 → BitVec 8 → Prop) : Prop :=
  ∀ (d a b c : VReg) (s : State),
    encode (mk d a b c) = [firstWordR op d a b c] ∧
    (∀ p q m, vreg s a = some p → vreg s b = some q → vreg s c = some m →
      (BooleanVector m → GivesVector (mk d a b c) s 1 d fun r =>
        ∀ i < 16, good (byteLane m i = 0xFF) (byteLane p i) (byteLane q i) (byteLane r i)) ∧
      (¬ BooleanVector m → Raises (mk d a b c) s 4 0)) ∧
    ((vreg s a = none ∨ vreg s b = none ∨ vreg s c = none) → Raises (mk d a b c) s 2 0)

/-- A command that reads v[a] and writes x[d]: its encoding, its result and its fault. -/
def ReductionRule (op : BitVec 6) (mk : XReg → VReg → Instr) (good : Vec → BitVec 64 → Prop) : Prop :=
  ∀ (d : XReg) (a : VReg) (s : State),
    encode (mk d a) = [firstWordR op d a 0 0] ∧
    (∀ p, vreg s a = some p → GivesScalar (mk d a) s 1 d (good p)) ∧
    (vreg s a = none → Raises (mk d a) s 2 0)

/-- The lanes of `r` are related to those of `p` one by one. -/
def LaneWise1 (good : BitVec 8 → BitVec 8 → Prop) (p r : Vec) : Prop :=
  ∀ i < 16, good (byteLane p i) (byteLane r i)

/-- The lanes of `r` are related to those of `p` and `q` one by one. -/
def LaneWise2 (good : BitVec 8 → BitVec 8 → BitVec 8 → Prop) (p q r : Vec) : Prop :=
  ∀ i < 16, good (byteLane p i) (byteLane q i) (byteLane r i)

/-- The bits of `r` are a function of those of `p` and `q` one by one. -/
def BitWise2 (f : Bool → Bool → Bool) (p q r : Vec) : Prop :=
  ∀ j < 128, r.getLsbD j = f (p.getLsbD j) (q.getLsbD j)

/-- The commands that reach data memory (20_memory.md R61). -/
def reachesMemory : Instr → Bool
  | .vld _ _ | .vlda _ _ | .vldp _ _ _ | .vst _ _ | .vsta _ _ | .vstp _ _ _ => true
  | _ => false

/-- The commands that write data memory (20_memory.md R61). -/
def writesMemory : Instr → Bool
  | .vst _ _ | .vsta _ _ | .vstp _ _ _ => true
  | _ => false

end Sys2Proof.Claims

open Sys2Proof Sys2Proof.Machine Sys2Proof.Claims

/-! ## 40_bitregister128.md -/

/-- R120. -/
def Obligations.VzeroWritesZero : Prop :=
  ∀ (d : VReg) (s : State),
    encode (.vzero d) = [firstWordR 0x01 d 0 0 0] ∧ GivesVector (.vzero d) s 1 d fun r => r = 0

/-- R121, with the access check of 20_memory.md R64. -/
def Obligations.VldLoadsSixteenBytes : Prop :=
  ∀ (d : VReg) (a : XReg) (s : State),
    encode (.vld d a) = [firstWordR 0x08 d a 0 0] ∧
    (∀ addr, xreg s a = some addr →
      (Accessible s addr.toNat 16 .read → GivesVector (.vld d a) s 1 d fun r =>
        ∀ i < 16, byteLane r i = Memory.read s.mem (addr.toNat + i)) ∧
      ChecksAccess (.vld d a) s addr 16 .read) ∧
    (xreg s a = none → Raises (.vld d a) s 2 0)

/-- R122, with the access check of 20_memory.md R64. -/
def Obligations.VstStoresSixteenBytes : Prop :=
  ∀ (a : VReg) (b : XReg) (s : State),
    encode (.vst a b) = [firstWordR 0x09 0 a b 0] ∧
    (∀ val addr, vreg s a = some val → xreg s b = some addr →
      (Memory.wf s.mem = true → Accessible s addr.toNat 16 .write → StoresLanes (.vst a b) s val addr.toNat 16) ∧
      ChecksAccess (.vst a b) s addr 16 .write) ∧
    ((vreg s a = none ∨ xreg s b = none) → Raises (.vst a b) s 2 0)

/-- R123: misalignment is reported before an invalid byte; an aligned footprint never wraps. -/
def Obligations.VldaLoadsAlignedBytes : Prop :=
  ∀ (d : VReg) (a : XReg) (s : State),
    encode (.vlda d a) = [firstWordR 0x0A d a 0 0] ∧
    (∀ addr, xreg s a = some addr →
      (addr.toNat % 16 ≠ 0 → Raises (.vlda d a) s 5 addr) ∧
      (addr.toNat % 16 = 0 →
        (Accessible s addr.toNat 16 .read → GivesVector (.vlda d a) s 1 d fun r =>
          ∀ i < 16, byteLane r i = Memory.read s.mem (addr.toNat + i)) ∧
        ChecksValidity (.vlda d a) s addr 16 .read ∧ addr.toNat + 16 ≤ 2 ^ 64)) ∧
    (xreg s a = none → Raises (.vlda d a) s 2 0)

/-- R124: misalignment is reported before an invalid byte; an aligned footprint never wraps. -/
def Obligations.VstaStoresAlignedBytes : Prop :=
  ∀ (a : VReg) (b : XReg) (s : State),
    encode (.vsta a b) = [firstWordR 0x0B 0 a b 0] ∧
    (∀ val addr, vreg s a = some val → xreg s b = some addr →
      (addr.toNat % 16 ≠ 0 → Raises (.vsta a b) s 5 addr) ∧
      (addr.toNat % 16 = 0 →
        (Memory.wf s.mem = true → Accessible s addr.toNat 16 .write → StoresLanes (.vsta a b) s val addr.toNat 16) ∧
        ChecksValidity (.vsta a b) s addr 16 .write ∧ addr.toNat + 16 ≤ 2 ^ 64)) ∧
    ((vreg s a = none ∨ xreg s b = none) → Raises (.vsta a b) s 2 0)

/-- R125 to R128: AND, OR, XOR and AND-NOT, bit by bit. -/
def Obligations.BitwiseCommandsCombineBits : Prop :=
  BinaryRule 0x10 .vand (BitWise2 fun p q => p && q) ∧
  BinaryRule 0x11 .vor (BitWise2 fun p q => p || q) ∧
  BinaryRule 0x12 .vxor (BitWise2 fun p q => p != q) ∧
  BinaryRule 0x13 .vandn (BitWise2 fun p q => p && !q)

/-- R129. -/
def Obligations.VnotComplementsBits : Prop :=
  UnaryRule 0x14 .vnot fun p r => ∀ j < 128, r.getLsbD j = !p.getLsbD j

/-- R130 and R131: 1 iff every bit is 1, and 1 iff some bit is 1; otherwise 0. -/
def Obligations.BitTestsWriteOneOrZero : Prop :=
  ReductionRule 0x15 .vall (fun p r =>
    ((∀ j < 128, p.getLsbD j = true) → r = 1) ∧ ((∃ j < 128, p.getLsbD j = false) → r = 0)) ∧
  ReductionRule 0x16 .vany (fun p r =>
    ((∃ j < 128, p.getLsbD j = true) → r = 1) ∧ ((∀ j < 128, p.getLsbD j = false) → r = 0))

/-! ## 41_lane_construct_memory.md -/

/-- R150: every lane is the scalar's low 8 bits. -/
def Obligations.VbcastCopiesLowByte : Prop :=
  ∀ (d : VReg) (a : XReg) (s : State),
    encode (.vbcast d a) = [firstWordR 0x03 d a 0 0] ∧
    (∀ n, xreg s a = some n → GivesVector (.vbcast d a) s 1 d fun r =>
      ∀ i < 16, ((byteLane r i).toNat : Int) = n.toInt % 256) ∧
    (xreg s a = none → Raises (.vbcast d a) s 2 0)

/-- R151: the literal is W4 ++ W3 ++ W2 ++ W1; with fewer than four literal words the step is an `IllegalCommand`. -/
def Obligations.VlitWritesLiteral : Prop :=
  ∀ (d : VReg) (w1 w2 w3 w4 : BitVec 32) (s : State),
    encode (.vlit d (w4 ++ w3 ++ w2 ++ w1)) = [firstWordR 0x04 d 0 0 0, w1, w2, w3, w4] ∧
    GivesVector (.vlit d (w4 ++ w3 ++ w2 ++ w1)) s 5 d (fun r => r = w4 ++ w3 ++ w2 ++ w1) ∧
    (∀ rest : List Word, rest.length < 4 → s.status.getLsbD 0 = false →
      s.stream.drop s.cix = firstWordR 0x04 d 0 0 0 :: rest → step s = .next (faultState s 1 0))

/-- R152: all 128 bits, with no check. -/
def Obligations.VmovCopiesRegister : Prop :=
  UnaryRule 0x02 .vmov fun p r => r = p

/-- R154, with the footprint of 20_memory.md R70. -/
def Obligations.VldpLoadsFirstLanes : Prop :=
  ∀ (d : VReg) (a b : XReg) (s : State),
    encode (.vldp d a b) = [firstWordR 0x0C d a b 0] ∧
    (∀ addr n, xreg s a = some addr → xreg s b = some n →
      (Accessible s addr.toNat (partialFootprint s addr.toNat (clampCount n.toInt)) .read →
        GivesVector (.vldp d a b) s 1 d fun r => ∀ i < 16, byteLane r i =
          if i < clampCount n.toInt then Memory.read s.mem (addr.toNat + i) else 0) ∧
      ChecksAccess (.vldp d a b) s addr (partialFootprint s addr.toNat (clampCount n.toInt)) .read) ∧
    ((xreg s a = none ∨ xreg s b = none) → Raises (.vldp d a b) s 2 0)

/-- R155, with the footprint of 20_memory.md R71. -/
def Obligations.VstpStoresFirstLanes : Prop :=
  ∀ (a : VReg) (b c : XReg) (s : State),
    encode (.vstp a b c) = [firstWordR 0x0D 0 a b c] ∧
    (∀ val addr n, vreg s a = some val → xreg s b = some addr → xreg s c = some n →
      (Memory.wf s.mem = true → Accessible s addr.toNat (clampCount n.toInt) .write →
        StoresLanes (.vstp a b c) s val addr.toNat (clampCount n.toInt)) ∧
      ChecksAccess (.vstp a b c) s addr (clampCount n.toInt) .write) ∧
    ((vreg s a = none ∨ xreg s b = none ∨ xreg s c = none) → Raises (.vstp a b c) s 2 0)

/-- R156. -/
def Obligations.VcutZeroesHighLanes : Prop :=
  ScalarOperandRule 0x20 .vcut fun p n r =>
    ∀ i : Nat, i < 16 → byteLane r i = if (i : Int) < n.toInt then byteLane p i else 0

/-- R157: the index is taken modulo 16 as an integer, so -1 selects lane 15. -/
def Obligations.VinsReplacesOneLane : Prop :=
  ∀ (d a : VReg) (b c : XReg) (s : State),
    encode (.vins d a b c) = [firstWordR 0x21 d a b c] ∧
    (∀ p j n, vreg s a = some p → xreg s b = some j → xreg s c = some n →
      GivesVector (.vins d a b c) s 1 d fun r => ∀ i : Nat, i < 16 →
        if (i : Int) = j.toInt % 16 then ((byteLane r i).toNat : Int) = n.toInt % 256
        else byteLane r i = byteLane p i) ∧
    ((vreg s a = none ∨ xreg s b = none ∨ xreg s c = none) → Raises (.vins d a b c) s 2 0)

/-- R158: the selected lane, as a signed number. -/
def Obligations.VextReadsOneLane : Prop :=
  ∀ (d : XReg) (a : VReg) (b : XReg) (s : State),
    encode (.vext d a b) = [firstWordR 0x22 d a b 0] ∧
    (∀ p j, vreg s a = some p → xreg s b = some j → GivesScalar (.vext d a b) s 1 d fun r =>
      r.toInt = (byteLane p (j.toInt % 16).toNat).toInt) ∧
    ((vreg s a = none ∨ xreg s b = none) → Raises (.vext d a b) s 2 0)

/-! ## 42_lane_arith.md -/

/-- R180, R181, R183: each lane is the exact sum, difference or product modulo 256. -/
def Obligations.WrappingLaneArithmetic : Prop :=
  BinaryRule 0x18 .vadd (LaneWise2 fun p q => IsWrap8 (p.toInt + q.toInt)) ∧
  BinaryRule 0x19 .vsub (LaneWise2 fun p q => IsWrap8 (p.toInt - q.toInt)) ∧
  BinaryRule 0x1B .vmul (LaneWise2 fun p q => IsWrap8 (p.toInt * q.toInt))

/-- R182. -/
def Obligations.VnegNegatesLanes : Prop :=
  UnaryRule 0x1A .vneg (LaneWise1 fun p => IsWrap8 (0 - p.toInt))

/-- R184: one truth value for the whole vector. -/
def Obligations.VeqComparesWholeVectors : Prop :=
  ∀ (d : XReg) (a b : VReg) (s : State),
    encode (.veq d a b) = [firstWordR 0x1F d a b 0] ∧
    (∀ p q, vreg s a = some p → vreg s b = some q → GivesScalar (.veq d a b) s 1 d fun r =>
      ((∀ i < 16, byteLane p i = byteLane q i) → r = 1) ∧ ((∃ i < 16, byteLane p i ≠ byteLane q i) → r = 0)) ∧
    ((vreg s a = none ∨ vreg s b = none) → Raises (.veq d a b) s 2 0)

/-- R186: bits shifted out of the lane are lost. -/
def Obligations.VshlShiftsLanesLeft : Prop :=
  ShiftRule 0x1C .vshl fun c p r => ∀ j < 8, r.getLsbD j = (decide (c ≤ j) && p.getLsbD (j - c))

/-- R187: the floor of the signed quotient by 2^c. -/
def Obligations.VsarShiftsLanesRight : Prop :=
  ShiftRule 0x1D .vsar fun c p r => r.toInt * 2 ^ c ≤ p.toInt ∧ p.toInt < (r.toInt + 1) * 2 ^ c

/-! ## 43_boolean_select.md -/

/-- R210. -/
def Obligations.VboolsBuildsMask : Prop :=
  ∀ (d : VReg) (imm : BitVec 16) (s : State),
    encode (.vbools d imm) = [firstWordI 0x05 d imm] ∧
    GivesVector (.vbools d imm) s 1 d fun r =>
      BooleanVector r ∧ ∀ i < 16, byteLane r i = if imm.getLsbD i then 0xFF else 0x00

/-- R212. -/
def Obligations.VselSelectsLanes : Prop :=
  MaskedRule 0x24 .vsel fun m p q r => (m → r = p) ∧ (¬ m → r = q)

/-- R213 and R214. -/
def Obligations.ConditionalAddAndSubtract : Prop :=
  MaskedRule 0x25 .vifadd (fun m p q r => (m → IsWrap8 (p.toInt + q.toInt) r) ∧ (¬ m → r = p)) ∧
  MaskedRule 0x26 .vifsub (fun m p q r => (m → IsWrap8 (p.toInt - q.toInt) r) ∧ (¬ m → r = p))

/-- R215. -/
def Obligations.ConditionalMultiply : Prop :=
  MaskedRule 0x27 .vifmul fun m p q r => (m → IsWrap8 (p.toInt * q.toInt) r) ∧ (¬ m → r = p)

/-- R216 and R217. -/
def Obligations.ComparatorsBuildMasks : Prop :=
  BinaryRule 0x30 .vcmpeq (fun p q r => BooleanVector r ∧
    LaneWise2 (fun p q r => r = if p = q then 0xFF else 0x00) p q r) ∧
  BinaryRule 0x31 .vcmpgt (fun p q r => BooleanVector r ∧
    LaneWise2 (fun p q r => r = if q.toInt < p.toInt then 0xFF else 0x00) p q r)

/-! ## 44_reduce_saturate.md -/

/-- R240: the sum modulo 256, read as a signed 8-bit number. -/
def Obligations.VhaddWritesWrappedSum : Prop :=
  ReductionRule 0x28 .vhadd fun p r =>
    r.toInt % 256 = laneTotal p % 256 ∧ -128 ≤ r.toInt ∧ r.toInt ≤ 127

/-- R241: the exact sum. -/
def Obligations.VhaddxWritesExactSum : Prop :=
  ReductionRule 0x29 .vhaddx fun p r => r.toInt = laneTotal p ∧ -2048 ≤ r.toInt ∧ r.toInt ≤ 2032

/-- R242 and R243. -/
def Obligations.SaturatingLaneArithmetic : Prop :=
  BinaryRule 0x2A .vadds (LaneWise2 fun p q => IsSat8 (p.toInt + q.toInt)) ∧
  BinaryRule 0x2B .vsubs (LaneWise2 fun p q => IsSat8 (p.toInt - q.toInt))

/-- R244 and R245. -/
def Obligations.LaneMinimumAndMaximum : Prop :=
  BinaryRule 0x2C .vmin (LaneWise2 fun p q r => r.toInt = min p.toInt q.toInt) ∧
  BinaryRule 0x2D .vmax (LaneWise2 fun p q r => r.toInt = max p.toInt q.toInt)

/-- R246 and R247: -128 stays -128 in VABS and becomes 127 in VABSS. -/
def Obligations.LaneAbsoluteValues : Prop :=
  UnaryRule 0x2E .vabs (LaneWise1 fun p => IsWrap8 p.toInt.natAbs) ∧
  UnaryRule 0x2F .vabss (LaneWise1 fun p => IsSat8 p.toInt.natAbs)

/-- R248: bit j of a lane comes from the bit `n` places below it, round the lane; n is taken modulo 8 as an integer. -/
def Obligations.VrotlRotatesLanes : Prop :=
  ScalarOperandRule 0x1E .vrotl fun p n r => ∀ i < 16, ∀ j : Nat, j < 8 →
    (byteLane r i).getLsbD j = (byteLane p i).getLsbD (((j : Int) - n.toInt) % 8).toNat

/-! ## 45_scalar_interface.md -/

/-- R270: the literal is W2 ++ W1; with fewer than two literal words the step is an `IllegalCommand`. -/
def Obligations.XliWritesLiteral : Prop :=
  ∀ (d : XReg) (w1 w2 : BitVec 32) (s : State),
    encode (.xli d (w2 ++ w1)) = [firstWordR 0x06 d 0 0 0, w1, w2] ∧
    GivesScalar (.xli d (w2 ++ w1)) s 3 d (fun r => r = w2 ++ w1) ∧
    (∀ rest : List Word, rest.length < 2 → s.status.getLsbD 0 = false →
      s.stream.drop s.cix = firstWordR 0x06 d 0 0 0 :: rest → step s = .next (faultState s 1 0))

/-! ## 30_encoding.md -/

/-- Some words written out bit by bit from R91, R92 and R95 decode to the commands they stand for. -/
def Obligations.WrittenWordsDecode : Prop :=
  decode [0b010000_0011_0001_0010_0000_0000000000] = .ok (.vand 3 1 2) ∧
  decode [0b001100_0001_0010_0011_0000_0000000000] = .ok (.vldp 1 2 3) ∧
  decode [0b001101_0000_0001_0100_0011_0000000000] = .ok (.vstp 1 4 3) ∧
  decode [0b011000_0011_0001_0010_0000_0000000000] = .ok (.vadd 3 1 2) ∧
  decode [0b000101_0011_000000_0000000011111111] = .ok (.vbools 3 0x00FF) ∧
  decode [0b100100_0100_0001_0010_0011_0000000000] = .ok (.vsel 4 1 2 3) ∧
  decode [0b101001_0101_0001_0000_0000_0000000000] = .ok (.vhaddx 5 1) ∧
  decode [0b000110_0100_0000_0000_0000_0000000000, 0x9ABCDEF0, 0x12345678] = .ok (.xli 4 0x123456789ABCDEF0)

/-- Every command decodes back from its words, with every operand at every value, whatever words follow. -/
def Obligations.DecodeOfEncodeIsTheCommand : Prop :=
  ∀ (i : Instr) (rest : List Word), decode (encode i ++ rest) = .ok i

/-- No words but a command's own encode it: no bit is dropped and no second encoding exists. -/
def Obligations.DecodedWordsAreTheEncoding : Prop :=
  ∀ (ws : List Word) (i : Instr), decode ws = .ok i → ws = encode i ++ ws.drop (encode i).length

/-- R100: a first word decodes iff it matches a row of the opcode map, and at most one row matches; the literal words
that the row's length asks for must follow (R99). -/
def Obligations.DecoderFollowsTheOpcodeMap : Prop :=
  (∀ (w : Word) (rest : List Word), (∃ i, decode (w :: rest) = .ok i) ↔
    ∃ r ∈ opcodeMap, w &&& r.mask = r.pattern ∧ r.words ≤ rest.length + 1) ∧
  (∀ w : Word, ∀ r ∈ opcodeMap, ∀ r' ∈ opcodeMap, w &&& r.mask = r.pattern → w &&& r'.mask = r'.pattern → r = r')

/-! ## 60_exceptions.md and 70_reset_and_hazards.md: the machine -/

/-- A step of a running block is the execution of the command decoded at `cix`, with nothing added around it: `exec`
itself advances `cix`. -/
def Obligations.StepRunsTheDecodedCommand : Prop :=
  ∀ (s : State) (i : Instr), s.status.getLsbD 0 = false → s.cix < s.stream.length →
    decode (s.stream.drop s.cix) = .ok i → step s = exec i s

/-- R282: a first word with an unassigned OP, one that matches no row of the opcode map, and a command whose literal
words lie past the end of the stream each enter `IllegalCommand`, with nothing else changed. -/
def Obligations.UndecodableCommandIsIllegal : Prop :=
  ∀ s : State, s.status.getLsbD 0 = false → s.cix < s.stream.length →
    let w := s.stream.getD s.cix 0
    ((w.toNat / 2 ^ 26 ∈ [0x00, 0x07, 0x0E, 0x0F, 0x17, 0x23] ∨ 0x32 ≤ w.toNat / 2 ^ 26) →
      step s = .next (faultState s 1 0)) ∧
    ((∀ r ∈ opcodeMap, w &&& r.mask ≠ r.pattern) → step s = .next (faultState s 1 0)) ∧
    (∀ r ∈ opcodeMap, w &&& r.mask = r.pattern → s.stream.length < s.cix + r.words →
      step s = .next (faultState s 1 0))

/-- R291: every command either completes, with `cix` advanced by its length and the status registers kept, or enters one
of the six faults with nothing but the status registers changed; with a fault recorded, no command is executed. -/
def Obligations.FaultsArePrecise : Prop :=
  (∀ (i : Instr) (s : State),
    (∃ t, exec i s = .next t ∧ t.cix = s.cix + (encode i).length ∧ StatusKept s t ∧ ParametersKept s t) ∨
    (∃ code addr, 1 ≤ code ∧ code ≤ 6 ∧ Raises i s code addr)) ∧
  (∀ s t : State, s.status.getLsbD 0 = true → step s = .next t → t = s)

/-- R292: no step and no host transaction but RESET changes a recorded fault, and RESET clears all four registers. -/
def Obligations.FaultIsStickyUntilReset : Prop :=
  (∀ s t : State, s.status.getLsbD 0 = true → step s = .next t → StatusKept s t) ∧
  (∀ (tr : Transaction) (s t : State) (r : Reply), tr ≠ .reset → hostStep tr s = .next (t, r) → StatusKept s t) ∧
  (∀ s : State, ∃ t, hostStep .reset s = .next (t, .done) ∧
    t.status = 0 ∧ t.faultCix = 0 ∧ t.faultAddr = 0 ∧ t.faultWord = 0)

/-- The invariant holds right after reset. The canonical form of memory and the empty stream are the model's choices
(log entries 4 and 5). -/
def Obligations.ResetHasInvariant : Prop := BlockInvariant State.reset

/-- Every step keeps the invariant, from every state that has it. The canonical form of memory is the model's choice
(log entry 4). -/
def Obligations.StepKeepsInvariant : Prop :=
  ∀ s t : State, BlockInvariant s → step s = .next t → BlockInvariant t

/-- Every host transaction keeps the invariant. The transactions as functions beside `step`, refused while the block
runs, are the model's choice (log entry 8). -/
def Obligations.HostTransactionsKeepInvariant : Prop :=
  ∀ (tr : Transaction) (s t : State) (r : Reply), BlockInvariant s → hostStep tr s = .next (t, r) → BlockInvariant t

/-- From every state that has the invariant, a step answers a next state: the machine never stops dead. That a step of a
block that is not running answers the same state is the model's choice (log entry 6). -/
def Obligations.StepAlwaysAnswersNext : Prop :=
  ∀ s : State, BlockInvariant s → ∃ t, step s = .next t

/-- R319: a step of a running block adds 1, 3 or 5 to `cix` or records a fault, so that a run of L words, from its start
at `cix` = 0, has stopped after at most L steps. -/
def Obligations.RunsTerminate : Prop :=
  (∀ s : State, s.status.getLsbD 0 = false → s.cix < s.stream.length → ∃ t, step s = .next t ∧
    (t.status.getLsbD 0 = true ∨ t.cix = s.cix + 1 ∨ t.cix = s.cix + 3 ∨ t.cix = s.cix + 5)) ∧
  (∀ s : State, s.cix = 0 → ∃ k t, k ≤ s.stream.length ∧ Host.Core.run Sys2Proof.core k s = .next t ∧
    (t.status.getLsbD 0 = true ∨ t.cix = t.stream.length))

/-- 20_memory.md R61: a command other than the three stores leaves every byte as it was, and a command other than the
six memory commands does the same whatever memory holds. -/
def Obligations.OnlyMemoryCommandsReachMemory : Prop :=
  (∀ (i : Instr) (s t : State), writesMemory i = false → exec i s = .next t → MemoryKept s t) ∧
  (∀ (i : Instr) (s t : State) (m : Memory), reachesMemory i = false → exec i s = .next t →
    exec i { s with mem := m } = .next { t with mem := m })

/-- 41_lane_construct_memory.md R159, where the footprint of the partial load is what must be readable (20_memory.md
R70: the n bytes themselves when OVERREAD = false). -/
def Obligations.PartialLoadThenStoreCopies : Prop :=
  ∀ (s : State) (d : VReg) (xa ya na : XReg) (x y n : BitVec 64),
    Memory.wf s.mem = true → xreg s xa = some x → xreg s ya = some y → xreg s na = some n →
    0 ≤ n.toInt → n.toInt ≤ 16 →
    Accessible s x.toNat (partialFootprint s x.toNat n.toNat) .read → Accessible s y.toNat n.toNat .write →
    ∃ t u, exec (.vldp d xa na) s = .next t ∧ exec (.vstp d ya na) t = .next u ∧
      ∀ c, Memory.read u.mem c =
        if y.toNat ≤ c ∧ c < y.toNat + n.toNat then Memory.read s.mem (x.toNat + (c - y.toNat))
        else Memory.read s.mem c

/-- 41_lane_construct_memory.md R154: the value a partial load writes does not depend on OVERREAD. -/
def Obligations.OverreadDoesNotChangeTheValue : Prop :=
  ∀ (s t u : State) (d : VReg) (a b : XReg) (flag : Bool),
    exec (.vldp d a b) s = .next t →
    exec (.vldp d a b) { s with platform := { s.platform with overread := flag } } = .next u →
    t.cix = s.cix + 1 → u.cix = s.cix + 1 → vreg t d = vreg u d

/-- 40_bitregister128.md R123 and R124, corner cases: at a multiple of 16 the aligned commands do what the unaligned
ones do. -/
def Obligations.AlignedAccessEqualsUnaligned : Prop :=
  (∀ (d : VReg) (a : XReg) (s : State) (addr : BitVec 64), xreg s a = some addr → addr.toNat % 16 = 0 →
    exec (.vlda d a) s = exec (.vld d a) s) ∧
  (∀ (a : VReg) (b : XReg) (s : State) (addr : BitVec 64), xreg s b = some addr → addr.toNat % 16 = 0 →
    exec (.vsta a b) s = exec (.vst a b) s)

/-- 43_boolean_select.md R216, R217, corner case: a comparator's result is a mask that the select takes without a
fault. -/
def Obligations.ComparatorMasksAreAccepted : Prop :=
  ∀ (s : State) (m a b d p q : VReg) (va vb vp vq : Vec),
    vreg s a = some va → vreg s b = some vb → p ≠ m → q ≠ m → vreg s p = some vp → vreg s q = some vq →
    (∃ t u, exec (.vcmpeq m a b) s = .next t ∧ exec (.vsel d p q m) t = .next u ∧ u.cix = s.cix + 2) ∧
    (∃ t u, exec (.vcmpgt m a b) s = .next t ∧ exec (.vsel d p q m) t = .next u ∧ u.cix = s.cix + 2)

/-- 44_reduce_saturate.md R244, corner case: minimum plus maximum is the sum, lane by lane modulo 256. -/
def Obligations.MinimumPlusMaximumIsSum : Prop :=
  ∀ (s : State) (a b lo hi d e : VReg) (p q : Vec), lo ≠ a → lo ≠ b → hi ≠ lo →
    vreg s a = some p → vreg s b = some q →
    ∃ t u w z r, exec (.vmin lo a b) s = .next t ∧ exec (.vmax hi a b) t = .next u ∧
      exec (.vadd d lo hi) u = .next w ∧ vreg w d = some r ∧
      exec (.vadd e a b) s = .next z ∧ vreg z e = some r

/-- 44_reduce_saturate.md R248, corner case: a rotate by k and then by 8 - k gives the vector back, for k in [0, 8]. -/
def Obligations.RotateThereAndBack : Prop :=
  ∀ (s : State) (a d e : VReg) (k k' : XReg) (n n' : BitVec 64) (p : Vec),
    vreg s a = some p → xreg s k = some n → xreg s k' = some n' →
    0 ≤ n.toInt → n.toInt ≤ 8 → n'.toInt = 8 - n.toInt →
    ∃ t u, exec (.vrotl d a k) s = .next t ∧ exec (.vrotl e d k') t = .next u ∧ vreg u e = some p

/-! ## The host interface -/

/-- 70_reset_and_hazards.md R311: what RESET leaves, from any state. The state right after reset is one that RESET does
not change. -/
def Obligations.ResetClearsTheBlock : Prop :=
  ∀ s : State, ∃ t, hostStep .reset s = .next (t, .done) ∧
    (∀ r, vreg t r = none) ∧ (∀ r, xreg t r = none) ∧ t.cix = 0 ∧ t.status = 0 ∧ t.faultCix = 0 ∧
    t.faultAddr = 0 ∧ t.faultWord = 0 ∧ MemoryKept s t ∧ t.platform = s.platform ∧
    hostStep .faultOut t = .next (t, .line false) ∧ hostStep .reset State.reset = .next (State.reset, .done)

/-- 70_reset_and_hazards.md R317: a start with no fault recorded and no run going on sets `cix` to 0 and keeps every
register and byte; a start with a fault recorded changes nothing and the block does not run. -/
def Obligations.StartBeginsARun : Prop :=
  (∀ (s : State) (c : List Word), s.status.getLsbD 0 = false → s.stream.length ≤ s.cix →
    ∃ t, hostStep (.start c) s = .next (t, .done) ∧ t.cix = 0 ∧ t.stream = c ∧ (∀ r, vreg t r = vreg s r) ∧
      (∀ r, xreg t r = xreg s r) ∧ MemoryKept s t ∧ StatusKept s t ∧ t.platform = s.platform ∧
      (c = [] → t.cix = t.stream.length)) ∧
  (∀ (s : State) (c : List Word), s.status.getLsbD 0 = true →
    ∀ t r, hostStep (.start c) s = .next (t, r) → t = s ∧ ∀ u, step t = .next u → u = t)

/-- 70_reset_and_hazards.md R316: when the block is not running, a preload makes the register hold the value and changes
nothing else, and a readback answers the value or "no value" and changes nothing. The transactions as functions beside
`step` are the model's choice (log entry 8). -/
def Obligations.PreloadAndReadback : Prop :=
  ∀ s : State, (s.status.getLsbD 0 = true ∨ s.stream.length ≤ s.cix) →
    (∀ (r : VReg) (val : Vec), ∃ t, hostStep (.writeVReg r val) s = .next (t, .done) ∧ vreg t r = some val ∧
      OnlyVector r s t ∧ t.cix = s.cix ∧ hostStep (.readVReg r) t = .next (t, .vector (some val))) ∧
    (∀ (r : XReg) (val : BitVec 64), ∃ t, hostStep (.writeXReg r val) s = .next (t, .done) ∧ xreg t r = some val ∧
      OnlyScalar r s t ∧ t.cix = s.cix ∧ hostStep (.readXReg r) t = .next (t, .scalar (some val))) ∧
    (∀ r, hostStep (.readVReg r) s = .next (s, .vector (vreg s r))) ∧
    (∀ r, hostStep (.readXReg r) s = .next (s, .scalar (xreg s r))) ∧
    hostStep .readCix s = .next (s, .index s.cix) ∧
    (∀ (a : BitVec 64) (b : BitVec 8), Memory.wf s.mem = true →
      ∃ t, hostStep (.writeMemory a b) s = .next (t, .done) ∧
        (∀ c, Memory.read t.mem c = if c = a.toNat then b else Memory.read s.mem c) ∧
        (∀ r, vreg t r = vreg s r) ∧ (∀ r, xreg t r = xreg s r) ∧ t.cix = s.cix ∧ StatusKept s t ∧
        ParametersKept s t ∧ hostStep (.readMemory a) t = .next (t, .byte b))

/-- 10_state.md R41, 70_reset_and_hazards.md R323: the read port of the status registers answers at any time between
commands, with no side effect: the register's value between runs, and in a run too for every state that the invariant
admits. 60_exceptions.md R299: while the block runs the answer is 0 whatever the state holds, so the host observes the
registers only between runs. Holding these rules together so is the model's reading (log entry 17); that STATUS and
FAULT_WORD are zero-extended is its choice (log entry 15). -/
def Obligations.StatusReadPort : Prop :=
  ∀ s : State,
    ((s.status.getLsbD 0 = true ∨ s.stream.length ≤ s.cix ∨ BlockInvariant s) →
      hostStep (.readStatus 0) s = .next (s, .status (s.status.setWidth 64)) ∧
      hostStep (.readStatus 1) s = .next (s, .status s.faultCix) ∧
      hostStep (.readStatus 2) s = .next (s, .status s.faultAddr) ∧
      hostStep (.readStatus 3) s = .next (s, .status (s.faultWord.setWidth 64))) ∧
    (∀ k, 3 < k → hostStep (.readStatus k) s = .next (s, .status 0)) ∧
    (s.status.getLsbD 0 = false → s.cix < s.stream.length →
      ∀ k, hostStep (.readStatus k) s = .next (s, .status 0))

/-- 70_reset_and_hazards.md R322: after a completed run the block does nothing. That the model says so by a step that
answers the same state is the model's choice (log entry 6). -/
def Obligations.CompletedRunDoesNothing : Prop :=
  ∀ s : State, s.status.getLsbD 0 = false → s.cix = s.stream.length → step s = .next s

/-- 60_exceptions.md R299, 70_reset_and_hazards.md R316, R323: while the block runs, the host gets no register, no `cix`
and no byte of memory, and writes none of them; the status port answers 0, FAULT_OUT is 0, and no transaction at all lets
the host tell one running block from another: what one answers, the other answers too. That the rest is refused is the
model's choice (log entry 8), and so is the reading of R41 beside R299 (log entry 17). -/
def Obligations.RunningBlockShowsTheHostNothing : Prop :=
  ∀ s : State, s.status.getLsbD 0 = false → s.cix < s.stream.length →
    (∀ r, hostStep (.readVReg r) s = .refused .hostWhileRunning) ∧
    (∀ r, hostStep (.readXReg r) s = .refused .hostWhileRunning) ∧
    hostStep .readCix s = .refused .hostWhileRunning ∧
    (∀ a, hostStep (.readMemory a) s = .refused .hostWhileRunning) ∧
    (∀ r val, hostStep (.writeVReg r val) s = .refused .hostWhileRunning) ∧
    (∀ r val, hostStep (.writeXReg r val) s = .refused .hostWhileRunning) ∧
    (∀ a b, hostStep (.writeMemory a b) s = .refused .hostWhileRunning) ∧
    (∀ c, hostStep (.start c) s = .refused .hostWhileRunning) ∧
    hostStep .faultOut s = .next (s, .line false) ∧
    (∀ k, hostStep (.readStatus k) s = .next (s, .status 0)) ∧
    (∀ s' : State, s'.status.getLsbD 0 = false → s'.cix < s'.stream.length →
      ∀ (tr : Transaction) (t : State) (r : Reply), hostStep tr s = .next (t, r) → ∃ t', hostStep tr s' = .next (t', r))
end

