-- ==== Sys2Proof/Laws/Decode.lean ====
section
/-! SUPPORT. The fields of an encoded first word, and the literal words of a literal. -/

namespace Sys2Proof

theorem toNat_wordR {op : Nat} (h : op < 64) (d a b c : Fin 16) :
    (wordR op d a b c).toNat = op * 2 ^ 26 + d.val * 2 ^ 22 + a.val * 2 ^ 18 + b.val * 2 ^ 14 + c.val * 2 ^ 10 := by
  rw [wordR, BitVec.toNat_ofNat, Nat.mod_eq_of_lt]; omega

theorem toNat_wordI {op : Nat} (h : op < 64) (d : Fin 16) (imm : BitVec 16) :
    (wordI op d imm).toNat = op * 2 ^ 26 + d.val * 2 ^ 22 + imm.toNat := by
  rw [wordI, BitVec.toNat_ofNat, Nat.mod_eq_of_lt]; have := imm.isLt; omega

section WordR

variable {op : Nat} (h : op < 64) (d a b c : Fin 16)

include h

theorem opField_wordR : opField (wordR op d a b c) = op := by rw [opField, toNat_wordR h]; omega

theorem fieldD_wordR : fieldD (wordR op d a b c) = d := by
  rw [fieldD, toNat_wordR h]; apply Fin.ext; simp only [Fin.val_ofNat]; omega

theorem fieldA_wordR : fieldA (wordR op d a b c) = a := by
  rw [fieldA, toNat_wordR h]; apply Fin.ext; simp only [Fin.val_ofNat]; omega

theorem fieldB_wordR : fieldB (wordR op d a b c) = b := by
  rw [fieldB, toNat_wordR h]; apply Fin.ext; simp only [Fin.val_ofNat]; omega

theorem fieldC_wordR : fieldC (wordR op d a b c) = c := by
  rw [fieldC, toNat_wordR h]; apply Fin.ext; simp only [Fin.val_ofNat]; omega

theorem lowBitsZero_wordR_ten : lowBitsZero (wordR op d a b c) 10 = true := by
  rw [lowBitsZero, toNat_wordR h]; simp only [beq_iff_eq]; omega

theorem lowBitsZero_wordR_fourteen : lowBitsZero (wordR op d a b 0) 14 = true := by
  rw [lowBitsZero, toNat_wordR h]; simp only [beq_iff_eq, Fin.val_zero]; omega

theorem lowBitsZero_wordR_eighteen : lowBitsZero (wordR op d a 0 0) 18 = true := by
  rw [lowBitsZero, toNat_wordR h]; simp only [beq_iff_eq, Fin.val_zero]; omega

theorem lowBitsZero_wordR_twentytwo : lowBitsZero (wordR op d 0 0 0) 22 = true := by
  rw [lowBitsZero, toNat_wordR h]; simp only [beq_iff_eq, Fin.val_zero]; omega

end WordR

section WordI

variable {op : Nat} (h : op < 64) (d : Fin 16) (imm : BitVec 16)

include h

theorem opField_wordI : opField (wordI op d imm) = op := by
  rw [opField, toNat_wordI h]; have := imm.isLt; omega

theorem fieldD_wordI : fieldD (wordI op d imm) = d := by
  rw [fieldD, toNat_wordI h]; apply Fin.ext; simp only [Fin.val_ofNat]; have := imm.isLt; omega

theorem fieldImm16_wordI : fieldImm16 (wordI op d imm) = imm := by
  rw [fieldImm16, toNat_wordI h]; apply BitVec.eq_of_toNat_eq; simp only [BitVec.toNat_ofNat]; have := imm.isLt; omega

theorem reserved_wordI : (wordI op d imm).toNat / 2 ^ 16 % 2 ^ 6 = 0 := by
  rw [toNat_wordI h]; have := imm.isLt; omega

end WordI

/-- Format R back from its fields: a first word with no bit set below bit 10 is the word of its fields. -/
theorem wordR_of_fields {w : Word} (h : lowBitsZero w 10 = true) :
    wordR (opField w) (fieldD w) (fieldA w) (fieldB w) (fieldC w) = w := by
  apply BitVec.eq_of_toNat_eq
  have hw := w.isLt
  rw [toNat_wordR (by rw [opField]; omega)]
  simp only [lowBitsZero, beq_iff_eq] at h
  simp only [opField, fieldD, fieldA, fieldB, fieldC, Fin.val_ofNat]
  omega

theorem wordI_of_fields {w : Word} (h : w.toNat / 2 ^ 16 % 2 ^ 6 = 0) :
    wordI (opField w) (fieldD w) (fieldImm16 w) = w := by
  apply BitVec.eq_of_toNat_eq
  have hw := w.isLt
  rw [toNat_wordI (by rw [opField]; omega)]
  simp only [opField, fieldD, fieldImm16, Fin.val_ofNat, BitVec.toNat_ofNat]
  omega

/-- A 128-bit literal back from its four words (30_encoding.md R95). -/
theorem append_literal_four (imm : BitVec 128) :
    (literal imm 3 ++ literal imm 2 ++ literal imm 1 ++ literal imm 0 : BitVec 128) = imm := by
  apply BitVec.eq_of_getLsbD_eq
  intro i hi
  simp only [literal, BitVec.getLsbD_append, BitVec.getLsbD_extractLsb']
  by_cases h1 : i < 32
  · simp [h1]
  · by_cases h2 : i < 64
    · have e : 32 + (i - 32) = i := by omega
      have l : i - 32 < 32 := by omega
      simp [h1, l, e]
    · by_cases h3 : i < 96
      · have e : 64 + (i - 32 - 32) = i := by omega
        have l1 : ¬ i - 32 < 32 := by omega
        have l : i - 32 - 32 < 32 := by omega
        simp [h1, l1, l, e]
      · have e : 96 + (i - 32 - 32 - 32) = i := by omega
        have l1 : ¬ i - 32 < 32 := by omega
        have l2 : ¬ i - 32 - 32 < 32 := by omega
        have l : i - 32 - 32 - 32 < 32 := by omega
        simp [h1, l1, l2, l, e]

/-- A 64-bit literal back from its two words (30_encoding.md R95). -/
theorem append_literal_two (imm : BitVec 64) : (literal imm 1 ++ literal imm 0 : BitVec 64) = imm := by
  apply BitVec.eq_of_getLsbD_eq
  intro i hi
  simp only [literal, BitVec.getLsbD_append, BitVec.getLsbD_extractLsb']
  by_cases h1 : i < 32
  · simp [h1]
  · have e : 32 + (i - 32) = i := by omega
    have l : i - 32 < 32 := by omega
    simp [h1, l, e]

end Sys2Proof
end

