-- ==== Sys2Proof/Laws/Lanes.lean ====
section
/-! SUPPORT. Lanes of a packed vector, a vector is its lanes, and the integer readings of the lane functions. -/

namespace Sys2Proof.Machine

theorem packLanes_nil : packLanes [] = 0 := rfl

theorem lane_packLanes_cons_zero (b : Lane) (bs : List Lane) : lane (packLanes (b :: bs)) 0 = b := by
  apply BitVec.eq_of_getLsbD_eq
  intro j hj
  have : j < 128 := by omega
  simp [lane, packLanes, hj, this]

theorem lane_packLanes_cons_succ (b : Lane) (bs : List Lane) {i : Nat} (h : i < 15) :
    lane (packLanes (b :: bs)) (i + 1) = lane (packLanes bs) i := by
  apply BitVec.eq_of_getLsbD_eq
  intro j hj
  have hlt : 8 * (i + 1) + j < 128 := by omega
  have hge : ¬ 8 * (i + 1) + j < 8 := by omega
  have hsub : 8 * (i + 1) + j - 8 = 8 * i + j := by omega
  have hout : b.getLsbD (8 * (i + 1) + j) = false := BitVec.getLsbD_of_ge _ _ (by omega)
  simp [lane, packLanes, hlt, hge, hsub, hout, hj, BitVec.getLsbD_eq_getElem (show 8 * i + j < 128 by omega)]

theorem lane_packLanes (bs : List Lane) {i : Nat} (h : i < 16) : lane (packLanes bs) i = bs.getD i 0 := by
  induction bs generalizing i with
  | nil => simp [packLanes, lane]
  | cons b bs ih =>
    cases i with
    | zero => simpa using lane_packLanes_cons_zero b bs
    | succ i => rw [lane_packLanes_cons_succ b bs (by omega), ih (by omega)]; simp

/-- Lane i of `lanes f` is `f i` (00_scope.md R11). -/
@[simp] theorem lane_lanes (f : Nat → Lane) {i : Nat} (h : i < 16) : lane (lanes f) i = f i := by
  simp [lanes, lane_packLanes, h]

/-- A vector is its sixteen lanes. -/
theorem ext_lanes {p q : Vec} (h : ∀ i < 16, lane p i = lane q i) : p = q := by
  ext k hk
  have hl := h (k / 8) (by omega)
  have hb := congrArg (fun b : Lane => b.getLsbD (k % 8)) hl
  have e : 8 * (k / 8) + k % 8 = k := by omega
  have l : k % 8 < 8 := by omega
  simpa [lane, e, l, BitVec.getLsbD_eq_getElem hk] using hb

@[simp] theorem lanes_lane (p : Vec) : lanes (lane p) = p := ext_lanes fun i hi => by simp [hi]

@[simp] theorem lane_mapLanes (f : Lane → Lane) (p : Vec) {i : Nat} (h : i < 16) :
    lane (mapLanes f p) i = f (lane p i) := by simp [mapLanes, h]

@[simp] theorem lane_zipLanes (f : Lane → Lane → Lane) (p q : Vec) {i : Nat} (h : i < 16) :
    lane (zipLanes f p q) i = f (lane p i) (lane q i) := by simp [zipLanes, h]

@[simp] theorem lane_cutLanes (k : Nat) (p : Vec) {i : Nat} (h : i < 16) :
    lane (cutLanes k p) i = if i < k then lane p i else 0 := by simp [cutLanes, h]

@[simp] theorem lane_insertLane (j : Nat) (b : Lane) (p : Vec) {i : Nat} (h : i < 16) :
    lane (insertLane j b p) i = if i = j then b else lane p i := by simp [insertLane, h]

@[simp] theorem lane_boolVec (bits : BitVec 16) {i : Nat} (h : i < 16) :
    lane (boolVec bits) i = boolLane (bits.getLsbD i) := by simp [boolVec, h]

@[simp] theorem lane_and (p q : Vec) (i : Nat) : lane (p &&& q) i = lane p i &&& lane q i := by
  ext j hj; simp [lane]

@[simp] theorem lane_or (p q : Vec) (i : Nat) : lane (p ||| q) i = lane p i ||| lane q i := by
  ext j hj; simp [lane]

@[simp] theorem lane_xor (p q : Vec) (i : Nat) : lane (p ^^^ q) i = lane p i ^^^ lane q i := by
  ext j hj; simp [lane]

theorem lane_not (p : Vec) {i : Nat} (h : i < 16) : lane (~~~p) i = ~~~lane p i := by
  ext j hj
  have : 8 * i + j < 128 := by omega
  simp [lane, this]

@[simp] theorem lane_zero (i : Nat) : lane 0 i = 0 := by simp [lane]

theorem getLsbD_allOnes {j : Nat} (h : j < 128) : allOnes.getLsbD j = true := by
  rw [allOnes, BitVec.getLsbD_allOnes]; simp [h]

/-- The mask check says that every lane is 0x00 or 0xFF (00_scope.md R15). -/
theorem isBoolVec_iff (m : Vec) : isBoolVec m = true ↔ ∀ i < 16, lane m i = 0x00 ∨ lane m i = 0xFF := by
  simp [isBoolVec]

@[simp] theorem length_laneBytes (v : Vec) (n : Nat) : (laneBytes v n).length = n := by simp [laneBytes]

theorem getD_laneBytes (v : Vec) {n i : Nat} (h : i < n) : (laneBytes v n).getD i 0 = lane v i := by
  simp [laneBytes, h]

/-! ## Integer readings -/

theorem clamp16_le (n : Int) : clamp16 n ≤ 16 := by
  unfold clamp16; split <;> [omega; (split <;> omega)]

theorem toInt_wrap8 (z : Int) : (wrap8 z).toInt = z.bmod 256 := by
  simp [wrap8, BitVec.toInt_ofInt]

theorem toInt_sat8 (z : Int) : (sat8 z).toInt = min 127 (max (-128) z) := by
  rw [sat8, BitVec.toInt_ofInt, Int.bmod_eq_of_le] <;> omega

theorem laneIndex_lt (n : Scalar) : laneIndex n < 16 := (n.extractLsb' 0 4).isLt

theorem rotateAmount_lt (n : Scalar) : rotateAmount n < 8 := (n.extractLsb' 0 3).isLt

end Sys2Proof.Machine
end

