-- ==== Sys2Proof/Laws/Memory.lean ====
section
/-! SUPPORT. Data memory: a read after a write, byte lists, and that every memory operation keeps the canonical form. -/

namespace Sys2Proof.Machine

theorem Memory.wfFrom_mono {lo lo' : Nat} {m : Memory} (h : lo' ≤ lo) (w : Memory.wfFrom lo m = true) :
    Memory.wfFrom lo' m = true := by
  cases m with
  | nil => rfl
  | cons c m =>
    obtain ⟨k, b⟩ := c
    simp only [Memory.wfFrom, Bool.and_eq_true, decide_eq_true_eq] at w ⊢
    exact ⟨⟨⟨by omega, w.1.1.2⟩, w.1.2⟩, w.2⟩

/-- A byte below the bound of a canonical memory is not listed. -/
theorem Memory.read_below {lo : Nat} {m : Memory} (w : Memory.wfFrom lo m = true) {a : Nat} (h : a < lo) :
    Memory.read m a = unlistedByte := by
  induction m generalizing lo with
  | nil => rfl
  | cons c m ih =>
    obtain ⟨k, b⟩ := c
    simp only [Memory.wfFrom, Bool.and_eq_true, decide_eq_true_eq] at w
    have : k ≠ a := by omega
    simp [Memory.read, this, ih w.2 (by omega)]

/-- A write keeps the canonical form. -/
theorem Memory.wfFrom_write {lo : Nat} {m : Memory} (w : Memory.wfFrom lo m = true) {a : Nat} (hl : lo ≤ a)
    (ha : a < 2 ^ 64) (b : Lane) : Memory.wfFrom lo (Memory.write m a b) = true := by
  induction m generalizing lo with
  | nil => by_cases hb : b = unlistedByte <;> simp [Memory.write, Memory.wfFrom, hb, hl]; omega
  | cons c m ih =>
    obtain ⟨k, c⟩ := c
    have w' := w
    simp only [Memory.wfFrom, Bool.and_eq_true, decide_eq_true_eq] at w
    obtain ⟨⟨⟨hlo, hk⟩, hc⟩, hm⟩ := w
    simp only [Memory.write]
    split
    · split
      · exact w'
      · rename_i hak hb
        simp only [Memory.wfFrom, Bool.and_eq_true, decide_eq_true_eq, bne_iff_ne, ne_eq]
        exact ⟨⟨⟨hl, ha⟩, hb⟩, ⟨⟨by omega, hk⟩, by simpa using hc⟩, hm⟩
    · split
      · split
        · exact Memory.wfFrom_mono (by omega) hm
        · rename_i hka hb
          subst hka
          simp only [Memory.wfFrom, Bool.and_eq_true, decide_eq_true_eq, bne_iff_ne, ne_eq]
          exact ⟨⟨⟨hl, ha⟩, hb⟩, hm⟩
      · simp only [Memory.wfFrom, Bool.and_eq_true, decide_eq_true_eq]
        exact ⟨⟨⟨hlo, hk⟩, hc⟩, ih hm (by omega)⟩

theorem Memory.wf_write {m : Memory} (w : Memory.wf m = true) {a : Nat} (ha : a < 2 ^ 64) (b : Lane) :
    Memory.wf (Memory.write m a b) = true :=
  Memory.wfFrom_write w (Nat.zero_le a) ha b

/-- A read after a write: the byte written at its address, every other byte as before (20_memory.md R75). -/
theorem Memory.read_write {lo : Nat} {m : Memory} (w : Memory.wfFrom lo m = true) (a : Nat) (b : Lane) (c : Nat) :
    Memory.read (Memory.write m a b) c = if c = a then b else Memory.read m c := by
  induction m generalizing lo with
  | nil =>
    by_cases hb : b = unlistedByte
    · by_cases hc : c = a <;> simp [Memory.write, Memory.read, hb, hc]
    · by_cases hc : c = a
      · subst hc; simp [Memory.write, Memory.read, hb]
      · simp [Memory.write, Memory.read, hb, hc, Ne.symm hc]
  | cons d m ih =>
    obtain ⟨k, d⟩ := d
    simp only [Memory.wfFrom, Bool.and_eq_true, decide_eq_true_eq] at w
    obtain ⟨⟨⟨hlo, hk⟩, hd⟩, hm⟩ := w
    by_cases hak : a < k
    · have hread : Memory.read ((k, d) :: m) a = unlistedByte := by
        have : k ≠ a := by omega
        simp [Memory.read, this, Memory.read_below hm (show a < k + 1 by omega)]
      by_cases hb : b = unlistedByte
      · by_cases hc : c = a
        · subst hc; simp [Memory.write, hak, hb, hread]
        · simp [Memory.write, hak, hb, hc]
      · by_cases hc : c = a
        · subst hc; simp [Memory.write, hak, hb, Memory.read]
        · simp [Memory.write, hak, hb, hc, Memory.read, Ne.symm hc]
    · by_cases hk' : a = k
      · subst hk'
        by_cases hb : b = unlistedByte
        · by_cases hc : c = a
          · subst hc; simp [Memory.write, hb, Memory.read_below hm (show c < c + 1 by omega)]
          · simp [Memory.write, hb, hc, Memory.read, Ne.symm hc]
        · by_cases hc : c = a
          · subst hc; simp [Memory.write, hb, Memory.read]
          · simp [Memory.write, hb, hc, Memory.read, Ne.symm hc]
      · by_cases hkc : k = c
        · subst hkc
          simp [Memory.write, hak, hk', Memory.read, Ne.symm hk']
        · simp [Memory.write, hak, hk', Memory.read, hkc, ih hm]

theorem Memory.wf_writeBytes {m : Memory} (w : Memory.wf m = true) {a : Nat} {bs : List Lane}
    (ha : a + bs.length ≤ 2 ^ 64) : Memory.wf (writeBytes m a bs) = true := by
  induction bs generalizing m a with
  | nil => exact w
  | cons b bs ih =>
    simp only [List.length_cons] at ha
    exact ih (Memory.wf_write w (by omega) b) (by omega)

/-- What memory reads after `MemWrite`: the bytes written in the footprint, and every other byte as before. -/
theorem Memory.read_writeBytes {m : Memory} (w : Memory.wf m = true) {a : Nat} {bs : List Lane}
    (ha : a + bs.length ≤ 2 ^ 64) (c : Nat) :
    Memory.read (writeBytes m a bs) c =
      if a ≤ c ∧ c < a + bs.length then bs.getD (c - a) 0 else Memory.read m c := by
  induction bs generalizing m a with
  | nil =>
    have : ¬ (a ≤ c ∧ c < a) := by omega
    simp [writeBytes, this]
  | cons b bs ih =>
    simp only [List.length_cons] at ha
    rw [writeBytes, ih (Memory.wf_write w (by omega) b) (by omega), Memory.read_write w]
    by_cases hc : c = a
    · subst hc; simp
    · by_cases hin : a + 1 ≤ c ∧ c < a + 1 + bs.length
      · have e : c - a = (c - (a + 1)) + 1 := by omega
        have hin' : a ≤ c ∧ c < a + (bs.length + 1) := by omega
        simp only [hin, hin', List.length_cons, and_self, if_true, e, List.getD_cons_succ]
      · have hin' : ¬ (a ≤ c ∧ c < a + (bs.length + 1)) := by omega
        simp only [hin, hin', List.length_cons, if_false, hc]

@[simp] theorem length_readBytes (m : Memory) (a n : Nat) : (readBytes m a n).length = n := by simp [readBytes]

theorem getD_readBytes (m : Memory) (a : Nat) {n i : Nat} (h : i < n) :
    (readBytes m a n).getD i 0 = Memory.read m (a + i) := by
  simp [readBytes, h]

end Sys2Proof.Machine
end

