-- ==== Sys2Proof/Laws/State.lean ====
section
/-! SUPPORT. What each update of the state does to each field, and what a register reads after it. -/

namespace Sys2Proof.Machine

variable (s : State)

/-! ## setV -/

@[simp] theorem setV_v (r : VReg) (val : Vec) : (setV s r val).v = s.v.set r (some val) := rfl
@[simp] theorem setV_x (r : VReg) (val : Vec) : (setV s r val).x = s.x := rfl
@[simp] theorem setV_cix (r : VReg) (val : Vec) : (setV s r val).cix = s.cix := rfl
@[simp] theorem setV_status (r : VReg) (val : Vec) : (setV s r val).status = s.status := rfl
@[simp] theorem setV_faultCix (r : VReg) (val : Vec) : (setV s r val).faultCix = s.faultCix := rfl
@[simp] theorem setV_faultAddr (r : VReg) (val : Vec) : (setV s r val).faultAddr = s.faultAddr := rfl
@[simp] theorem setV_faultWord (r : VReg) (val : Vec) : (setV s r val).faultWord = s.faultWord := rfl
@[simp] theorem setV_mem (r : VReg) (val : Vec) : (setV s r val).mem = s.mem := rfl
@[simp] theorem setV_stream (r : VReg) (val : Vec) : (setV s r val).stream = s.stream := rfl
@[simp] theorem setV_platform (r : VReg) (val : Vec) : (setV s r val).platform = s.platform := rfl

/-! ## setX -/

@[simp] theorem setX_v (r : XReg) (val : Scalar) : (setX s r val).v = s.v := rfl
@[simp] theorem setX_x (r : XReg) (val : Scalar) : (setX s r val).x = s.x.set r (some val) := rfl
@[simp] theorem setX_cix (r : XReg) (val : Scalar) : (setX s r val).cix = s.cix := rfl
@[simp] theorem setX_status (r : XReg) (val : Scalar) : (setX s r val).status = s.status := rfl
@[simp] theorem setX_faultCix (r : XReg) (val : Scalar) : (setX s r val).faultCix = s.faultCix := rfl
@[simp] theorem setX_faultAddr (r : XReg) (val : Scalar) : (setX s r val).faultAddr = s.faultAddr := rfl
@[simp] theorem setX_faultWord (r : XReg) (val : Scalar) : (setX s r val).faultWord = s.faultWord := rfl
@[simp] theorem setX_mem (r : XReg) (val : Scalar) : (setX s r val).mem = s.mem := rfl
@[simp] theorem setX_stream (r : XReg) (val : Scalar) : (setX s r val).stream = s.stream := rfl
@[simp] theorem setX_platform (r : XReg) (val : Scalar) : (setX s r val).platform = s.platform := rfl

/-! ## setMem -/

@[simp] theorem setMem_v (m : Memory) : (setMem s m).v = s.v := rfl
@[simp] theorem setMem_x (m : Memory) : (setMem s m).x = s.x := rfl
@[simp] theorem setMem_cix (m : Memory) : (setMem s m).cix = s.cix := rfl
@[simp] theorem setMem_status (m : Memory) : (setMem s m).status = s.status := rfl
@[simp] theorem setMem_faultCix (m : Memory) : (setMem s m).faultCix = s.faultCix := rfl
@[simp] theorem setMem_faultAddr (m : Memory) : (setMem s m).faultAddr = s.faultAddr := rfl
@[simp] theorem setMem_faultWord (m : Memory) : (setMem s m).faultWord = s.faultWord := rfl
@[simp] theorem setMem_mem (m : Memory) : (setMem s m).mem = m := rfl
@[simp] theorem setMem_stream (m : Memory) : (setMem s m).stream = s.stream := rfl
@[simp] theorem setMem_platform (m : Memory) : (setMem s m).platform = s.platform := rfl

/-! ## advance -/

@[simp] theorem advance_v (k : Nat) : (advance s k).v = s.v := rfl
@[simp] theorem advance_x (k : Nat) : (advance s k).x = s.x := rfl
@[simp] theorem advance_cix (k : Nat) : (advance s k).cix = s.cix + k := rfl
@[simp] theorem advance_status (k : Nat) : (advance s k).status = s.status := rfl
@[simp] theorem advance_faultCix (k : Nat) : (advance s k).faultCix = s.faultCix := rfl
@[simp] theorem advance_faultAddr (k : Nat) : (advance s k).faultAddr = s.faultAddr := rfl
@[simp] theorem advance_faultWord (k : Nat) : (advance s k).faultWord = s.faultWord := rfl
@[simp] theorem advance_mem (k : Nat) : (advance s k).mem = s.mem := rfl
@[simp] theorem advance_stream (k : Nat) : (advance s k).stream = s.stream := rfl
@[simp] theorem advance_platform (k : Nat) : (advance s k).platform = s.platform := rfl

/-! ## enterFault -/

@[simp] theorem enterFault_v (c : Cause) (a : Scalar) : (enterFault s c a).v = s.v := rfl
@[simp] theorem enterFault_x (c : Cause) (a : Scalar) : (enterFault s c a).x = s.x := rfl
@[simp] theorem enterFault_cix (c : Cause) (a : Scalar) : (enterFault s c a).cix = s.cix := rfl
@[simp] theorem enterFault_status (c : Cause) (a : Scalar) : (enterFault s c a).status = (BitVec.ofNat 32 (causeCode c) <<< 4) ||| 1#32 := rfl
@[simp] theorem enterFault_faultCix (c : Cause) (a : Scalar) : (enterFault s c a).faultCix = BitVec.ofNat 64 s.cix := rfl
@[simp] theorem enterFault_faultAddr (c : Cause) (a : Scalar) : (enterFault s c a).faultAddr = a := rfl
@[simp] theorem enterFault_faultWord (c : Cause) (a : Scalar) : (enterFault s c a).faultWord = firstWord s := rfl
@[simp] theorem enterFault_mem (c : Cause) (a : Scalar) : (enterFault s c a).mem = s.mem := rfl
@[simp] theorem enterFault_stream (c : Cause) (a : Scalar) : (enterFault s c a).stream = s.stream := rfl
@[simp] theorem enterFault_platform (c : Cause) (a : Scalar) : (enterFault s c a).platform = s.platform := rfl

/-! ## resetBlock -/

@[simp] theorem resetBlock_v : (resetBlock s).v = Vector.replicate 16 none := rfl
@[simp] theorem resetBlock_x : (resetBlock s).x = Vector.replicate 16 none := rfl
@[simp] theorem resetBlock_cix : (resetBlock s).cix = 0 := rfl
@[simp] theorem resetBlock_status : (resetBlock s).status = 0 := rfl
@[simp] theorem resetBlock_faultCix : (resetBlock s).faultCix = 0 := rfl
@[simp] theorem resetBlock_faultAddr : (resetBlock s).faultAddr = 0 := rfl
@[simp] theorem resetBlock_faultWord : (resetBlock s).faultWord = 0 := rfl
@[simp] theorem resetBlock_mem : (resetBlock s).mem = s.mem := rfl
@[simp] theorem resetBlock_stream : (resetBlock s).stream = [] := rfl
@[simp] theorem resetBlock_platform : (resetBlock s).platform = s.platform := rfl

/-! ## Registers after an update -/

@[simp] theorem vreg_setV_self (r : VReg) (val : Vec) : vreg (setV s r val) r = some val := by
  simp [vreg, setV]

theorem vreg_setV_ne {r r' : VReg} (val : Vec) (h : r' ≠ r) : vreg (setV s r val) r' = vreg s r' := by
  have : r.val ≠ r'.val := fun e => h (Fin.ext e.symm)
  simp [vreg, setV, this]

@[simp] theorem xreg_setX_self (r : XReg) (val : Scalar) : xreg (setX s r val) r = some val := by
  simp [xreg, setX]

theorem xreg_setX_ne {r r' : XReg} (val : Scalar) (h : r' ≠ r) : xreg (setX s r val) r' = xreg s r' := by
  have : r.val ≠ r'.val := fun e => h (Fin.ext e.symm)
  simp [xreg, setX, this]

@[simp] theorem vreg_setX (q : XReg) (val : Scalar) (r : VReg) : vreg (setX s q val) r = vreg s r := rfl
@[simp] theorem vreg_setMem (m : Memory) (r : VReg) : vreg (setMem s m) r = vreg s r := rfl
@[simp] theorem vreg_advance (k : Nat) (r : VReg) : vreg (advance s k) r = vreg s r := rfl
@[simp] theorem vreg_enterFault (c : Cause) (a : Scalar) (r : VReg) : vreg (enterFault s c a) r = vreg s r := rfl
@[simp] theorem xreg_setV (q : VReg) (val : Vec) (r : XReg) : xreg (setV s q val) r = xreg s r := rfl
@[simp] theorem xreg_setMem (m : Memory) (r : XReg) : xreg (setMem s m) r = xreg s r := rfl
@[simp] theorem xreg_advance (k : Nat) (r : XReg) : xreg (advance s k) r = xreg s r := rfl
@[simp] theorem xreg_enterFault (c : Cause) (a : Scalar) (r : XReg) : xreg (enterFault s c a) r = xreg s r := rfl

/-! ## Reset -/

@[simp] theorem vreg_resetBlock (r : VReg) : vreg (resetBlock s) r = none := by simp [vreg]

@[simp] theorem xreg_resetBlock (r : XReg) : xreg (resetBlock s) r = none := by simp [xreg]

theorem resetBlock_reset : resetBlock State.reset = State.reset := rfl

end Sys2Proof.Machine
end

