-- ==== Sys2Proof/Laws/Ops.lean ====
section
/-! SUPPORT. For each shared operation, one lemma that says all it can do. A proof cites these and does not unfold the
operation. -/

namespace Sys2Proof.Machine

open Host (Outcome)

variable {s t : State}

/-! ## Register reads -/

theorem readV_ok {r : VReg} {p : Vec} (h : vreg s r = some p) : readV s r = .ok p := by simp [readV, h]

theorem readV_none {r : VReg} (h : vreg s r = none) : readV s r = .error ⟨.unwrittenRegister, 0⟩ := by simp [readV, h]

theorem readX_ok {r : XReg} {n : Scalar} (h : xreg s r = some n) : readX s r = .ok n := by simp [readX, h]

theorem readX_none {r : XReg} (h : xreg s r = none) : readX s r = .error ⟨.unwrittenRegister, 0⟩ := by simp [readX, h]

theorem readV_cases (s : State) (r : VReg) :
    (∃ p, vreg s r = some p ∧ readV s r = .ok p) ∨ (vreg s r = none ∧ readV s r = .error ⟨.unwrittenRegister, 0⟩) := by
  cases h : vreg s r with
  | none => exact .inr ⟨rfl, readV_none h⟩
  | some p => exact .inl ⟨p, rfl, readV_ok h⟩

theorem readX_cases (s : State) (r : XReg) :
    (∃ n, xreg s r = some n ∧ readX s r = .ok n) ∨ (xreg s r = none ∧ readX s r = .error ⟨.unwrittenRegister, 0⟩) := by
  cases h : xreg s r with
  | none => exact .inr ⟨rfl, readX_none h⟩
  | some n => exact .inl ⟨n, rfl, readX_ok h⟩

/-! ## Peeling a computation that may raise -/

theorem except_bind_ok {α β : Type} {e : Except Raised α} {f : α → Except Raised β} {b : β} :
    (e >>= f) = .ok b ↔ ∃ a, e = .ok a ∧ f a = .ok b := by
  cases e <;> simp [bind, Except.bind]

theorem except_bind_error {α β : Type} {e : Except Raised α} {f : α → Except Raised β} {r : Raised} :
    (e >>= f) = .error r ↔ e = .error r ∨ ∃ a, e = .ok a ∧ f a = .error r := by
  cases e <;> simp [bind, Except.bind]

@[simp] theorem except_ok_bind {α β : Type} (a : α) (f : α → Except Raised β) :
    ((Except.ok a : Except Raised α) >>= f) = f a := rfl

@[simp] theorem except_error_bind {α β : Type} (r : Raised) (f : α → Except Raised β) :
    ((Except.error r : Except Raised α) >>= f) = .error r := rfl

/-! ## Checks -/

/-- The access check passes exactly when the footprint is empty, or lies in the address space with every byte VALID
(20_memory.md R64). -/
theorem checkAccess_ok_iff {a : Scalar} {len : Nat} {k : AccessKind} :
    checkAccess s a len k = .ok () ↔
      len = 0 ∨ (a.toNat + len ≤ 2 ^ 64 ∧ ∀ j < len, validByte s.platform (a.toNat + j) k = true) := by
  unfold checkAccess
  split
  · simp_all
  · split
    · rename_i h0 h1; simp [h0]; intro h; omega
    · rename_i h0 h1
      split
      · rename_i j hj
        obtain ⟨h2, h3⟩ := List.find?_eq_some_iff_append.mp hj
        obtain ⟨as, bs, e, -⟩ := h3
        have hm : j ∈ List.range len := e ▸ by simp
        simp [h0]
        exact fun _ => ⟨j, by simpa using hm, by simpa using h2⟩
      · rename_i hn
        simp [h0]
        exact ⟨by omega, fun j hj => by simpa using List.find?_eq_none.mp hn j (by simpa using hj)⟩

/-- What the access check can raise: `MemoryFault`, with the base address where the footprint wraps, else the lowest
byte that is not VALID (20_memory.md R64). -/
theorem checkAccess_error {a : Scalar} {len : Nat} {k : AccessKind} {r : Raised}
    (h : checkAccess s a len k = .error r) :
    r.cause = .memoryFault ∧ 0 < len ∧
      ((2 ^ 64 < a.toNat + len ∧ r.addr = a) ∨
       (a.toNat + len ≤ 2 ^ 64 ∧ ∃ j < len, validByte s.platform (a.toNat + j) k = false ∧
         (∀ i < j, validByte s.platform (a.toNat + i) k = true) ∧ r.addr = BitVec.ofNat 64 (a.toNat + j))) := by
  unfold checkAccess at h
  split at h
  · cases h
  · rename_i h0
    split at h
    · cases h; exact ⟨rfl, by omega, .inl ⟨by omega, rfl⟩⟩
    · rename_i h1
      split at h
      · rename_i j hj
        cases h
        rw [List.find?_range_eq_some] at hj
        refine ⟨rfl, by omega, .inr ⟨by omega, j, by simpa using hj.2.1, by simpa using hj.1, ?_, rfl⟩⟩
        intro i hi
        simpa using hj.2.2 i hi
      · cases h

theorem checkAccess_ok_of_valid {a : Scalar} {len : Nat} {k : AccessKind} (h : a.toNat + len ≤ 2 ^ 64)
    (v : ∀ j < len, validByte s.platform (a.toNat + j) k = true) : checkAccess s a len k = .ok () :=
  checkAccess_ok_iff.mpr (.inr ⟨h, v⟩)

theorem requireAligned_ok {a : Scalar} (h : a.toNat % 16 = 0) : requireAligned a = .ok () := by simp [requireAligned, h]

theorem requireAligned_error {a : Scalar} (h : a.toNat % 16 ≠ 0) :
    requireAligned a = .error ⟨.misalignedAccess, a⟩ := by simp [requireAligned, h]

theorem shiftCount_ok {c : Scalar} (h : 0 ≤ c.toInt) (h' : c.toInt ≤ 7) : shiftCount c = .ok c.toInt.toNat := by
  have : ¬ (c.toInt < 0 ∨ 7 < c.toInt) := by omega
  simp [shiftCount, this]

theorem shiftCount_error {c : Scalar} (h : c.toInt < 0 ∨ 7 < c.toInt) :
    shiftCount c = .error ⟨.shiftCountRange, 0⟩ := by simp [shiftCount, h]

theorem requireMask_ok {m : Vec} (h : isBoolVec m = true) : requireMask m = .ok () := by simp [requireMask, h]

theorem requireMask_error {m : Vec} (h : isBoolVec m = false) :
    requireMask m = .error ⟨.maskNotBoolean, 0⟩ := by simp [requireMask, h]

theorem partialReadLength_le (p : Platform) (a : Nat) {k : Nat} (h : k ≤ 16) : partialReadLength p a k ≤ 16 := by
  unfold partialReadLength; split
  · omega
  · split <;> omega

theorem le_partialReadLength (p : Platform) (a : Nat) {k : Nat} (h : k ≤ 16) : k ≤ partialReadLength p a k := by
  unfold partialReadLength; split
  · omega
  · split <;> omega

/-! ## Completing a command -/

@[simp] theorem complete_ok (k : Nat) (s t : State) : complete k s (.ok t) = .next (advance t k) := rfl

@[simp] theorem complete_error (k : Nat) (s : State) (r : Raised) :
    complete k s (.error r) = .next (enterFault s r.cause r.addr) := rfl

/-- A command either completes or enters the fault it raised (60_exceptions.md R291). -/
theorem complete_cases {k : Nat} {e : Except Raised State} {t : State} (h : complete k s e = .next t) :
    (∃ u, e = .ok u ∧ t = advance u k) ∨ (∃ r, e = .error r ∧ t = enterFault s r.cause r.addr) := by
  cases e with
  | ok u => simp only [complete_ok, Outcome.next.injEq] at h; exact .inl ⟨u, rfl, h.symm⟩
  | error r => simp only [complete_error, Outcome.next.injEq] at h; exact .inr ⟨r, rfl, h.symm⟩

/-! ## The shared shapes -/

theorem vecUnary_ok {f : Vec → Vec} {d a : VReg} {p : Vec} (h : vreg s a = some p) :
    vecUnary f d a s = .ok (setV s d (f p)) := by simp [vecUnary, readV_ok h]

theorem vecUnary_cases (f : Vec → Vec) (d a : VReg) (s : State) :
    (∃ p, vreg s a = some p ∧ vecUnary f d a s = .ok (setV s d (f p))) ∨
    (vreg s a = none ∧ vecUnary f d a s = .error ⟨.unwrittenRegister, 0⟩) := by
  obtain ⟨p, h, e⟩ | ⟨h, e⟩ := readV_cases s a
  · exact .inl ⟨p, h, vecUnary_ok h⟩
  · exact .inr ⟨h, by simp [vecUnary, e]⟩

theorem vecBinary_ok {f : Vec → Vec → Vec} {d a b : VReg} {p q : Vec} (h : vreg s a = some p)
    (h' : vreg s b = some q) : vecBinary f d a b s = .ok (setV s d (f p q)) := by
  simp [vecBinary, readV_ok h, readV_ok h']

theorem vecBinary_cases (f : Vec → Vec → Vec) (d a b : VReg) (s : State) :
    (∃ p q, vreg s a = some p ∧ vreg s b = some q ∧ vecBinary f d a b s = .ok (setV s d (f p q))) ∨
    ((vreg s a = none ∨ vreg s b = none) ∧ vecBinary f d a b s = .error ⟨.unwrittenRegister, 0⟩) := by
  obtain ⟨p, h, e⟩ | ⟨h, e⟩ := readV_cases s a
  · obtain ⟨q, h', e'⟩ | ⟨h', e'⟩ := readV_cases s b
    · exact .inl ⟨p, q, h, h', vecBinary_ok h h'⟩
    · exact .inr ⟨.inr h', by simp [vecBinary, e, e']⟩
  · exact .inr ⟨.inl h, by simp [vecBinary, e]⟩

theorem vecScalar_ok {f : Vec → Scalar → Vec} {d a : VReg} {b : XReg} {p : Vec} {n : Scalar}
    (h : vreg s a = some p) (h' : xreg s b = some n) : vecScalar f d a b s = .ok (setV s d (f p n)) := by
  simp [vecScalar, readV_ok h, readX_ok h']

theorem vecScalar_cases (f : Vec → Scalar → Vec) (d a : VReg) (b : XReg) (s : State) :
    (∃ p n, vreg s a = some p ∧ xreg s b = some n ∧ vecScalar f d a b s = .ok (setV s d (f p n))) ∨
    ((vreg s a = none ∨ xreg s b = none) ∧ vecScalar f d a b s = .error ⟨.unwrittenRegister, 0⟩) := by
  obtain ⟨p, h, e⟩ | ⟨h, e⟩ := readV_cases s a
  · obtain ⟨n, h', e'⟩ | ⟨h', e'⟩ := readX_cases s b
    · exact .inl ⟨p, n, h, h', vecScalar_ok h h'⟩
    · exact .inr ⟨.inr h', by simp [vecScalar, e, e']⟩
  · exact .inr ⟨.inl h, by simp [vecScalar, e]⟩

theorem vecShift_ok {f : Nat → Vec → Vec} {d a : VReg} {b : XReg} {p : Vec} {n : Scalar} (h : vreg s a = some p)
    (h' : xreg s b = some n) (h0 : 0 ≤ n.toInt) (h7 : n.toInt ≤ 7) :
    vecShift f d a b s = .ok (setV s d (f n.toInt.toNat p)) := by
  simp [vecShift, readV_ok h, readX_ok h', shiftCount_ok h0 h7]

theorem vecShift_cases (f : Nat → Vec → Vec) (d a : VReg) (b : XReg) (s : State) :
    (∃ p n, vreg s a = some p ∧ xreg s b = some n ∧ 0 ≤ n.toInt ∧ n.toInt ≤ 7 ∧
      vecShift f d a b s = .ok (setV s d (f n.toInt.toNat p))) ∨
    (∃ p n, vreg s a = some p ∧ xreg s b = some n ∧ (n.toInt < 0 ∨ 7 < n.toInt) ∧
      vecShift f d a b s = .error ⟨.shiftCountRange, 0⟩) ∨
    ((vreg s a = none ∨ xreg s b = none) ∧ vecShift f d a b s = .error ⟨.unwrittenRegister, 0⟩) := by
  obtain ⟨p, h, e⟩ | ⟨h, e⟩ := readV_cases s a
  · obtain ⟨n, h', e'⟩ | ⟨h', e'⟩ := readX_cases s b
    · by_cases hr : n.toInt < 0 ∨ 7 < n.toInt
      · exact .inr (.inl ⟨p, n, h, h', hr, by simp [vecShift, e, e', shiftCount_error hr]⟩)
      · exact .inl ⟨p, n, h, h', by omega, by omega, vecShift_ok h h' (by omega) (by omega)⟩
    · exact .inr (.inr ⟨.inr h', by simp [vecShift, e, e']⟩)
  · exact .inr (.inr ⟨.inl h, by simp [vecShift, e]⟩)

theorem vecMasked_ok {f : Vec → Vec → Vec → Vec} {d a b c : VReg} {p q m : Vec} (h : vreg s a = some p)
    (h' : vreg s b = some q) (h'' : vreg s c = some m) (hm : isBoolVec m = true) :
    vecMasked f d a b c s = .ok (setV s d (f p q m)) := by
  simp [vecMasked, readV_ok h, readV_ok h', readV_ok h'', requireMask_ok hm]

theorem vecMasked_cases (f : Vec → Vec → Vec → Vec) (d a b c : VReg) (s : State) :
    (∃ p q m, vreg s a = some p ∧ vreg s b = some q ∧ vreg s c = some m ∧ isBoolVec m = true ∧
      vecMasked f d a b c s = .ok (setV s d (f p q m))) ∨
    (∃ p q m, vreg s a = some p ∧ vreg s b = some q ∧ vreg s c = some m ∧ isBoolVec m = false ∧
      vecMasked f d a b c s = .error ⟨.maskNotBoolean, 0⟩) ∨
    ((vreg s a = none ∨ vreg s b = none ∨ vreg s c = none) ∧
      vecMasked f d a b c s = .error ⟨.unwrittenRegister, 0⟩) := by
  obtain ⟨p, h, e⟩ | ⟨h, e⟩ := readV_cases s a
  · obtain ⟨q, h', e'⟩ | ⟨h', e'⟩ := readV_cases s b
    · obtain ⟨m, h'', e''⟩ | ⟨h'', e''⟩ := readV_cases s c
      · cases hm : isBoolVec m with
        | true => exact .inl ⟨p, q, m, h, h', h'', hm, vecMasked_ok h h' h'' hm⟩
        | false => exact .inr (.inl ⟨p, q, m, h, h', h'', hm, by simp [vecMasked, e, e', e'', requireMask_error hm]⟩)
      · exact .inr (.inr ⟨.inr (.inr h''), by simp [vecMasked, e, e', e'']⟩)
    · exact .inr (.inr ⟨.inr (.inl h'), by simp [vecMasked, e, e']⟩)
  · exact .inr (.inr ⟨.inl h, by simp [vecMasked, e]⟩)

theorem vecToScalar_ok {f : Vec → Scalar} {d : XReg} {a : VReg} {p : Vec} (h : vreg s a = some p) :
    vecToScalar f d a s = .ok (setX s d (f p)) := by simp [vecToScalar, readV_ok h]

theorem vecToScalar_cases (f : Vec → Scalar) (d : XReg) (a : VReg) (s : State) :
    (∃ p, vreg s a = some p ∧ vecToScalar f d a s = .ok (setX s d (f p))) ∨
    (vreg s a = none ∧ vecToScalar f d a s = .error ⟨.unwrittenRegister, 0⟩) := by
  obtain ⟨p, h, e⟩ | ⟨h, e⟩ := readV_cases s a
  · exact .inl ⟨p, h, vecToScalar_ok h⟩
  · exact .inr ⟨h, by simp [vecToScalar, e]⟩

/-- A load whose access check passes writes v[d]: byte `a + i` in lane i below `k`, 0 in the others. -/
theorem loadLanes_ok {d : VReg} {a : Scalar} {len k : Nat} (h : checkAccess s a len .read = .ok ()) (hk : k ≤ len) :
    loadLanes d a len k s = .ok (setV s d (lanes fun i => if i < k then Memory.read s.mem (a.toNat + i) else 0)) := by
  have e : lanes (fun i => if i < k then (readBytes s.mem a.toNat len).getD i 0 else 0) =
      lanes fun i => if i < k then Memory.read s.mem (a.toNat + i) else 0 := by
    refine ext_lanes fun i hi => ?_
    simp only [lane_lanes _ hi]
    split
    · exact getD_readBytes _ _ (by omega)
    · rfl
  simp only [loadLanes, h, except_ok_bind, e]; rfl

theorem loadLanes_error {d : VReg} {a : Scalar} {len k : Nat} {r : Raised}
    (h : checkAccess s a len .read = .error r) : loadLanes d a len k s = .error r := by simp [loadLanes, h]

theorem loadLanes_cases (d : VReg) (a : Scalar) {len k : Nat} (hk : k ≤ len) (s : State) :
    (checkAccess s a len .read = .ok () ∧ loadLanes d a len k s =
      .ok (setV s d (lanes fun i => if i < k then Memory.read s.mem (a.toNat + i) else 0))) ∨
    (∃ r, checkAccess s a len .read = .error r ∧ loadLanes d a len k s = .error r) := by
  cases h : checkAccess s a len .read with
  | ok _ => exact .inl ⟨rfl, loadLanes_ok h hk⟩
  | error r => exact .inr ⟨r, rfl, loadLanes_error h⟩

theorem storeLanes_ok {val : Vec} {a : Scalar} {k : Nat} (h : checkAccess s a k .write = .ok ()) :
    storeLanes val a k s = .ok (setMem s (writeBytes s.mem a.toNat (laneBytes val k))) := by
  simp only [storeLanes, h, except_ok_bind]; rfl

theorem storeLanes_error {val : Vec} {a : Scalar} {k : Nat} {r : Raised}
    (h : checkAccess s a k .write = .error r) : storeLanes val a k s = .error r := by simp [storeLanes, h]

/-- Memory after a store: lane i at `a + i` for i below `k`, every other byte as before (20_memory.md R62, R71). -/
theorem read_storeLanes {val : Vec} {a : Scalar} {k : Nat} (w : Memory.wf s.mem = true) (ha : a.toNat + k ≤ 2 ^ 64)
    (c : Nat) :
    Memory.read (writeBytes s.mem a.toNat (laneBytes val k)) c =
      if a.toNat ≤ c ∧ c < a.toNat + k then lane val (c - a.toNat) else Memory.read s.mem c := by
  rw [Memory.read_writeBytes w (by simpa using ha)]
  simp only [length_laneBytes]
  split
  · exact getD_laneBytes val (by omega)
  · rfl

/-! ## Fault entry and phases -/

theorem causeCode_pos (c : Cause) : 1 ≤ causeCode c ∧ causeCode c ≤ 6 := by cases c <;> decide

@[simp] theorem faultOut_enterFault (c : Cause) (a : Scalar) : faultOut (enterFault s c a) = true := by
  cases c <;> simp [faultOut, causeCode]

@[simp] theorem statusCause_enterFault (c : Cause) (a : Scalar) :
    statusCause (enterFault s c a) = BitVec.ofNat 4 (causeCode c) := by
  cases c <;> simp [statusCause, causeCode]

theorem phase_running_iff : phase s = .running ↔ faultOut s = false ∧ s.cix < s.stream.length := by
  unfold phase; split
  · simp_all
  · split
    · simp_all
    · split <;> simp_all

theorem phase_stopped_iff : phase s = .stoppedByFault ↔ faultOut s = true := by
  unfold phase; split
  · simp_all
  · split
    · simp_all
    · split <;> simp_all

theorem phase_idle_iff : phase s = .idle ↔ faultOut s = false ∧ s.cix = s.stream.length := by
  unfold phase; split
  · simp_all
  · split
    · simp_all; omega
    · split <;> simp_all

theorem phase_outside_iff : phase s = .outside ↔ faultOut s = false ∧ s.stream.length < s.cix := by
  unfold phase; split
  · simp_all
  · split
    · simp_all; omega
    · split
      · simp_all
      · simp_all; omega

end Sys2Proof.Machine
end

