-- ==== Sys2Proof/Laws/Exec.lean ====
section
/-! SUPPORT. What executing a command can do, said once for all 44 commands: it writes one vector register, one scalar
register or one footprint of memory and advances `cix`, or it enters a fault. -/

namespace Sys2Proof.Machine

/-- What the computation inside a command run in `s` can answer. -/
inductive Effect (s : State) : Except Raised State → Prop where
  | vector (d : VReg) (val : Vec) : Effect s (.ok (setV s d val))
  | scalar (d : XReg) (val : Scalar) : Effect s (.ok (setX s d val))
  | store (a : Scalar) (val : Vec) (k : Nat) (h : k = 0 ∨ a.toNat + k ≤ 2 ^ 64) :
      Effect s (.ok (setMem s (writeBytes s.mem a.toNat (laneBytes val k))))
  | unwritten : Effect s (.error ⟨.unwrittenRegister, 0⟩)
  | shiftCount : Effect s (.error ⟨.shiftCountRange, 0⟩)
  | mask : Effect s (.error ⟨.maskNotBoolean, 0⟩)
  | misaligned (a : Scalar) (h : a.toNat % 16 ≠ 0) : Effect s (.error ⟨.misalignedAccess, a⟩)
  | memory (a : Scalar) : Effect s (.error ⟨.memoryFault, a⟩)

variable {s : State}

theorem effect_vecUnary (f : Vec → Vec) (d a : VReg) : Effect s (vecUnary f d a s) := by
  obtain ⟨p, -, e⟩ | ⟨-, e⟩ := vecUnary_cases f d a s <;> rw [e] <;> constructor

theorem effect_vecBinary (f : Vec → Vec → Vec) (d a b : VReg) : Effect s (vecBinary f d a b s) := by
  obtain ⟨p, q, -, -, e⟩ | ⟨-, e⟩ := vecBinary_cases f d a b s <;> rw [e] <;> constructor

theorem effect_vecScalar (f : Vec → Scalar → Vec) (d a : VReg) (b : XReg) : Effect s (vecScalar f d a b s) := by
  obtain ⟨p, n, -, -, e⟩ | ⟨-, e⟩ := vecScalar_cases f d a b s <;> rw [e] <;> constructor

theorem effect_vecShift (f : Nat → Vec → Vec) (d a : VReg) (b : XReg) : Effect s (vecShift f d a b s) := by
  obtain ⟨p, n, -, -, -, -, e⟩ | ⟨p, n, -, -, -, e⟩ | ⟨-, e⟩ := vecShift_cases f d a b s <;> rw [e] <;> constructor

theorem effect_vecMasked (f : Vec → Vec → Vec → Vec) (d a b c : VReg) : Effect s (vecMasked f d a b c s) := by
  obtain ⟨p, q, m, -, -, -, -, e⟩ | ⟨p, q, m, -, -, -, -, e⟩ | ⟨-, e⟩ := vecMasked_cases f d a b c s <;>
    rw [e] <;> constructor

theorem effect_vecToScalar (f : Vec → Scalar) (d : XReg) (a : VReg) : Effect s (vecToScalar f d a s) := by
  obtain ⟨p, -, e⟩ | ⟨-, e⟩ := vecToScalar_cases f d a s <;> rw [e] <;> constructor

theorem effect_readV (r : VReg) (f : Vec → Except Raised State) (h : ∀ p, Effect s (f p)) :
    Effect s (readV s r >>= f) := by
  obtain ⟨p, -, e⟩ | ⟨-, e⟩ := readV_cases s r <;> rw [e]
  · exact h p
  · exact .unwritten

theorem effect_readX (r : XReg) (f : Scalar → Except Raised State) (h : ∀ p, Effect s (f p)) :
    Effect s (readX s r >>= f) := by
  obtain ⟨p, -, e⟩ | ⟨-, e⟩ := readX_cases s r <;> rw [e]
  · exact h p
  · exact .unwritten

theorem effect_requireAligned (a : Scalar) (f : Unit → Except Raised State) (h : Effect s (f ())) :
    Effect s (requireAligned a >>= f) := by
  by_cases ha : a.toNat % 16 = 0
  · rw [requireAligned_ok ha]; exact h
  · rw [requireAligned_error ha]; exact .misaligned a ha

theorem effect_loadLanes (d : VReg) (a : Scalar) {len k : Nat} (hk : k ≤ len) : Effect s (loadLanes d a len k s) := by
  obtain ⟨-, e⟩ | ⟨r, h, e⟩ := loadLanes_cases d a hk s <;> rw [e]
  · constructor
  · obtain ⟨c, x⟩ := r
    obtain rfl : c = .memoryFault := (checkAccess_error h).1
    exact .memory x

theorem effect_storeLanes (val : Vec) (a : Scalar) (k : Nat) : Effect s (storeLanes val a k s) := by
  cases h : checkAccess s a k .write with
  | ok _ => rw [storeLanes_ok h]; exact .store a val k ((checkAccess_ok_iff.mp h).imp_right And.left)
  | error r =>
    rw [storeLanes_error h]
    obtain ⟨c, x⟩ := r
    obtain rfl : c = .memoryFault := (checkAccess_error h).1
    exact .memory x

/-- Every command completes as many words as it is long, with one effect, or enters one of five faults. -/
theorem exec_effect (i : Instr) (s : State) : ∃ e, exec i s = complete (encode i).length s e ∧ Effect s e := by
  cases i with
  | vzero d => exact ⟨_, rfl, .vector d 0⟩
  | vmov d a => exact ⟨_, rfl, effect_vecUnary _ d a⟩
  | vbcast d a => exact ⟨_, rfl, effect_readX a _ fun _ => .vector d _⟩
  | vlit d imm => exact ⟨_, rfl, .vector d imm⟩
  | vbools d imm => exact ⟨_, rfl, .vector d _⟩
  | xli d imm => exact ⟨_, rfl, .scalar d imm⟩
  | vld d a => exact ⟨_, rfl, effect_readX a _ fun x => effect_loadLanes d x (le_refl 16)⟩
  | vst a b => exact ⟨_, rfl, effect_readV a _ fun p => effect_readX b _ fun x => effect_storeLanes p x 16⟩
  | vlda d a =>
    exact ⟨_, rfl, effect_readX a _ fun x => effect_requireAligned x _ (effect_loadLanes d x (le_refl 16))⟩
  | vsta a b =>
    exact ⟨_, rfl, effect_readV a _ fun p => effect_readX b _ fun x =>
      effect_requireAligned x _ (effect_storeLanes p x 16)⟩
  | vldp d a b =>
    exact ⟨_, rfl, effect_readX a _ fun x => effect_readX b _ fun n =>
      effect_loadLanes d x (le_partialReadLength s.platform x.toNat (clamp16_le n.toInt))⟩
  | vstp a b c =>
    exact ⟨_, rfl, effect_readV a _ fun p => effect_readX b _ fun x => effect_readX c _ fun n =>
      effect_storeLanes p x (clamp16 n.toInt)⟩
  | vand d a b => exact ⟨_, rfl, effect_vecBinary _ d a b⟩
  | vor d a b => exact ⟨_, rfl, effect_vecBinary _ d a b⟩
  | vxor d a b => exact ⟨_, rfl, effect_vecBinary _ d a b⟩
  | vandn d a b => exact ⟨_, rfl, effect_vecBinary _ d a b⟩
  | vnot d a => exact ⟨_, rfl, effect_vecUnary _ d a⟩
  | vall d a => exact ⟨_, rfl, effect_vecToScalar _ d a⟩
  | vany d a => exact ⟨_, rfl, effect_vecToScalar _ d a⟩
  | vadd d a b => exact ⟨_, rfl, effect_vecBinary _ d a b⟩
  | vsub d a b => exact ⟨_, rfl, effect_vecBinary _ d a b⟩
  | vneg d a => exact ⟨_, rfl, effect_vecUnary _ d a⟩
  | vmul d a b => exact ⟨_, rfl, effect_vecBinary _ d a b⟩
  | vshl d a b => exact ⟨_, rfl, effect_vecShift _ d a b⟩
  | vsar d a b => exact ⟨_, rfl, effect_vecShift _ d a b⟩
  | vrotl d a b => exact ⟨_, rfl, effect_vecScalar _ d a b⟩
  | veq d a b => exact ⟨_, rfl, effect_readV a _ fun _ => effect_readV b _ fun _ => .scalar d _⟩
  | vcut d a b => exact ⟨_, rfl, effect_vecScalar _ d a b⟩
  | vins d a b c =>
    exact ⟨_, rfl, effect_readV a _ fun _ => effect_readX b _ fun _ => effect_readX c _ fun _ => .vector d _⟩
  | vext d a b => exact ⟨_, rfl, effect_readV a _ fun _ => effect_readX b _ fun _ => .scalar d _⟩
  | vsel d a b c => exact ⟨_, rfl, effect_vecMasked _ d a b c⟩
  | vifadd d a b c => exact ⟨_, rfl, effect_vecMasked _ d a b c⟩
  | vifsub d a b c => exact ⟨_, rfl, effect_vecMasked _ d a b c⟩
  | vifmul d a b c => exact ⟨_, rfl, effect_vecMasked _ d a b c⟩
  | vhadd d a => exact ⟨_, rfl, effect_vecToScalar _ d a⟩
  | vhaddx d a => exact ⟨_, rfl, effect_vecToScalar _ d a⟩
  | vadds d a b => exact ⟨_, rfl, effect_vecBinary _ d a b⟩
  | vsubs d a b => exact ⟨_, rfl, effect_vecBinary _ d a b⟩
  | vmin d a b => exact ⟨_, rfl, effect_vecBinary _ d a b⟩
  | vmax d a b => exact ⟨_, rfl, effect_vecBinary _ d a b⟩
  | vabs d a => exact ⟨_, rfl, effect_vecUnary _ d a⟩
  | vabss d a => exact ⟨_, rfl, effect_vecUnary _ d a⟩
  | vcmpeq d a b => exact ⟨_, rfl, effect_vecBinary _ d a b⟩
  | vcmpgt d a b => exact ⟨_, rfl, effect_vecBinary _ d a b⟩

/-- The invariant part of every effect on memory: the canonical form is kept. -/
theorem wf_store {a : Scalar} {val : Vec} {k : Nat} (w : Memory.wf s.mem = true) (h : k = 0 ∨ a.toNat + k ≤ 2 ^ 64) :
    Memory.wf (writeBytes s.mem a.toNat (laneBytes val k)) = true := by
  obtain rfl | h := h
  · exact w
  · exact Memory.wf_writeBytes w (by simpa using h)

end Sys2Proof.Machine
end

