-- ==== Sys2Proof/Laws/HostPort.lean ====
section
/-! SUPPORT. What a host transaction can do, and what the fault record is while no fault is recorded. -/

namespace Sys2Proof.Machine

variable {s t : State} {r : Reply}

/-- A transaction allowed only when the block is not running either is made then, or is refused. -/
theorem whenNotRunning_cases (s t : State) (r : Reply) :
    (phase s ≠ .running ∧ whenNotRunning s t r = .next (t, r)) ∨
    (phase s = .running ∧ whenNotRunning s t r = .refused .hostWhileRunning) := by
  by_cases h : phase s = .running
  · exact .inr ⟨h, by simp [whenNotRunning, h]⟩
  · exact .inl ⟨h, by simp [whenNotRunning, h]⟩

theorem whenNotRunning_next {t' : State} {r' : Reply} (h : whenNotRunning s t r = .next (t', r')) :
    phase s ≠ .running ∧ t' = t ∧ r' = r := by
  obtain ⟨hp, e⟩ | ⟨-, e⟩ := whenNotRunning_cases s t r <;> rw [e] at h <;> cases h
  exact ⟨hp, rfl, rfl⟩

theorem startRun_faulted {c : List Word} (h : faultOut s = true) : startRun s c = s := by simp [startRun, h]

theorem startRun_ready {c : List Word} (h : faultOut s = false) :
    startRun s c = { s with cix := 0, stream := c } := by simp [startRun, h]

/-- A fault record has its FAULT bit set. -/
theorem faultOut_of_record {c : Cause} (h : RecordOf s c) : faultOut s = true := by
  rw [faultOut, h.1]; cases c <;> simp [causeCode]

/-- Under the invariant, FAULT = 0 means that the status registers hold no record. -/
theorem noRecord_of_noFault (i : BlockInvariant s) (h : faultOut s = false) : NoRecord s := by
  obtain ⟨-, -, n | ⟨c, -, hc⟩⟩ := i
  · exact n
  · rw [faultOut_of_record hc] at h; cases h

/-- The read port answers the register when the block is not running, and 0 when it is. -/
theorem statusPort_cases (s : State) (k : Nat) :
    (phase s ≠ .running ∧ statusPort s k = readStatus s k) ∨ (phase s = .running ∧ statusPort s k = 0) := by
  by_cases h : phase s = .running
  · exact .inr ⟨h, by simp [statusPort, h]⟩
  · exact .inl ⟨h, by simp [statusPort, h]⟩

theorem readStatus_of_noRecord (h : NoRecord s) (k : Nat) : readStatus s k = 0 := by
  obtain ⟨a, b, c, d⟩ := h
  simp [readStatus, a, b, c, d]

/-- Under the invariant the read port answers the register in every phase. -/
theorem statusPort_eq_readStatus (i : BlockInvariant s) (k : Nat) : statusPort s k = readStatus s k := by
  obtain ⟨-, e⟩ | ⟨hp, e⟩ := statusPort_cases s k
  · exact e
  · rw [e, readStatus_of_noRecord (noRecord_of_noFault i (phase_running_iff.1 hp).1)]

end Sys2Proof.Machine
end

