-- ==== Sys2Proof/Laws/OpcodeMap.lean ====
section
/-! SUPPORT. The masks of the opcode map (spec/30_encoding.md R96) against the fields of a first word (R91, R92): what
testing the masked bits says of the fields. -/

namespace Sys2Proof

theorem and_eq_iff {w m p : Word} : w &&& m = p ↔ ∀ i < 32, (w.getLsbD i && m.getLsbD i) = p.getLsbD i := by
  constructor
  · rintro rfl i _; exact (BitVec.getLsbD_and ..).symm
  · intro h; apply BitVec.eq_of_getLsbD_eq; intro i hi; rw [BitVec.getLsbD_and, h i hi]

/-- A mask that is two disjoint masks together tests both. -/
theorem and_split {w m m₁ m₂ p : Word} (hm : m = m₁ ||| m₂) (h₁ : p &&& m₁ = p) (h₂ : m₁ &&& m₂ = 0#32) :
    w &&& m = p ↔ w &&& m₁ = p ∧ w &&& m₂ = 0#32 := by
  subst hm
  rw [and_eq_iff] at h₁ h₂
  simp only [and_eq_iff, ← forall_and, BitVec.getLsbD_or]
  refine forall_congr' fun i => forall_congr' fun hi => ?_
  have a := h₁ i hi
  have b := h₂ i hi
  simp only [BitVec.getLsbD_zero] at b ⊢
  revert a b
  cases w.getLsbD i <;> cases m₁.getLsbD i <;> cases m₂.getLsbD i <;> cases p.getLsbD i <;> decide

/-- Testing a run of bits against a value is comparing the field they make up. -/
theorem and_run {w m : Word} {n k v : Nat} (h : ∀ i < 32, m.getLsbD i = decide (n ≤ i ∧ i < n + k)) (hnk : n + k ≤ 32)
    (hv : v < 2 ^ k) : w &&& m = BitVec.ofNat 32 (v * 2 ^ n) ↔ w.toNat / 2 ^ n % 2 ^ k = v := by
  have hp : ∀ i < 32, (BitVec.ofNat 32 (v * 2 ^ n)).getLsbD i = (decide (n ≤ i) && v.testBit (i - n)) := by
    intro i hi; rw [BitVec.getLsbD_ofNat, Nat.testBit_mul_two_pow]; simp [hi]
  have hv' : ∀ j, k ≤ j → v.testBit j = false := fun j hj =>
    Nat.testBit_lt_two_pow (lt_of_lt_of_le hv (Nat.pow_le_pow_right (by decide) hj))
  rw [and_eq_iff]
  constructor
  · intro hz
    apply Nat.eq_of_testBit_eq
    intro j
    rw [Nat.testBit_mod_two_pow, Nat.testBit_div_two_pow]
    by_cases hj : j < k
    · have := hz (j + n) (by omega)
      rw [h _ (by omega), hp _ (by omega)] at this
      simpa [hj, BitVec.getLsbD, show j + n < n + k by omega] using this
    · simp [hj, hv' j (by omega)]
  · intro hz i hi
    rw [h i hi, hp i hi]
    by_cases hj : n ≤ i ∧ i < n + k
    · have := congrArg (fun x => x.testBit (i - n)) hz
      simp only [Nat.testBit_mod_two_pow, Nat.testBit_div_two_pow] at this
      simpa [hj, BitVec.getLsbD, show i - n < k by omega, show i - n + n = i by omega] using this
    · by_cases hn : n ≤ i
      · simp [hv' (i - n) (by omega), show ¬ i < n + k by omega]
      · simp [hn]

/-- A row whose mask is the OP bits and `m₂` tests the OP field and that the bits of `m₂` are 0. -/
theorem and_row {w m p : Word} (m₂ : Word) (op : Nat) (h : op < 64) (hp : p = BitVec.ofNat 32 (op * 2 ^ 26))
    (hm : m = 0xFC000000#32 ||| m₂) (hd : 0xFC000000#32 &&& m₂ = 0#32) :
    w &&& m = p ↔ opField w = op ∧ w &&& m₂ = 0#32 := by
  subst hp
  have e : ∀ w : Word, w &&& 0xFC000000#32 = BitVec.ofNat 32 (op * 2 ^ 26) ↔ opField w = op := by
    intro w
    rw [and_run (n := 26) (k := 6) (by decide) (by decide) h, opField]
    have := w.isLt; omega
  rw [and_split hm ((e _).2 (by rw [opField, BitVec.toNat_ofNat, Nat.mod_eq_of_lt (by omega)]; omega)) hd, e]

theorem and_low {w m : Word} {n : Nat} (h : ∀ i < 32, m.getLsbD i = decide (0 ≤ i ∧ i < 0 + n)) (hn : n ≤ 32) :
    w &&& m = 0#32 ↔ lowBitsZero w n = true := by
  have := and_run (w := w) (v := 0) h (by omega) (by positivity)
  rw [lowBitsZero, beq_iff_eq]
  simpa using this

theorem and_low_ten (w : Word) : w &&& 0x000003FF#32 = 0#32 ↔ lowBitsZero w 10 = true :=
  and_low (by decide) (by decide)

theorem and_low_fourteen (w : Word) : w &&& 0x00003FFF#32 = 0#32 ↔ lowBitsZero w 14 = true :=
  and_low (by decide) (by decide)

theorem and_low_eighteen (w : Word) : w &&& 0x0003FFFF#32 = 0#32 ↔ lowBitsZero w 18 = true :=
  and_low (by decide) (by decide)

theorem and_low_twentytwo (w : Word) : w &&& 0x003FFFFF#32 = 0#32 ↔ lowBitsZero w 22 = true :=
  and_low (by decide) (by decide)

theorem and_fieldD (w : Word) : w &&& 0x03C00000#32 = 0#32 ↔ fieldD w = 0 :=
  (and_run (w := w) (m := 0x03C00000#32) (n := 22) (k := 4) (v := 0) (by decide) (by decide) (by positivity)).trans
    (by rw [Fin.ext_iff]; rfl)

theorem and_reservedI (w : Word) : w &&& 0x003F0000#32 = 0#32 ↔ (w.toNat / 2 ^ 16 % 2 ^ 6 == 0) = true :=
  (and_run (w := w) (m := 0x003F0000#32) (n := 16) (k := 6) (v := 0) (by decide) (by decide) (by positivity)).trans
    beq_iff_eq.symm

theorem and_formatAB (w : Word) : w &&& 0x03C03FFF#32 = 0#32 ↔ (lowBitsZero w 14 && fieldD w == 0) = true := by
  rw [Bool.and_eq_true, ← and_low_fourteen, beq_iff_eq, ← and_fieldD,
    and_split (m₁ := 0x3FFF#32) (m₂ := 0x03C00000#32) (by decide) (by decide) (by decide)]

theorem and_formatABC (w : Word) : w &&& 0x03C003FF#32 = 0#32 ↔ (lowBitsZero w 10 && fieldD w == 0) = true := by
  rw [Bool.and_eq_true, ← and_low_ten, beq_iff_eq, ← and_fieldD,
    and_split (m₁ := 0x3FF#32) (m₂ := 0x03C00000#32) (by decide) (by decide) (by decide)]

/-- The two words of an appended 64-bit literal (30_encoding.md R95). -/
theorem literal_append_two (w₁ w₂ : Word) :
    literal (w₂ ++ w₁ : BitVec 64) 0 = w₁ ∧ literal (w₂ ++ w₁ : BitVec 64) 1 = w₂ := by
  constructor <;>
    (apply BitVec.eq_of_getLsbD_eq; intro i hi
     simp only [literal, BitVec.getLsbD_extractLsb', BitVec.getLsbD_append]; simp [hi])

/-- The four words of an appended 128-bit literal (30_encoding.md R95). -/
theorem literal_append_four (w₁ w₂ w₃ w₄ : Word) :
    literal (w₄ ++ w₃ ++ w₂ ++ w₁ : BitVec 128) 0 = w₁ ∧ literal (w₄ ++ w₃ ++ w₂ ++ w₁ : BitVec 128) 1 = w₂ ∧
    literal (w₄ ++ w₃ ++ w₂ ++ w₁ : BitVec 128) 2 = w₃ ∧ literal (w₄ ++ w₃ ++ w₂ ++ w₁ : BitVec 128) 3 = w₄ := by
  refine ⟨?_, ?_, ?_, ?_⟩ <;>
    (apply BitVec.eq_of_getLsbD_eq; intro i hi
     simp only [literal, BitVec.getLsbD_extractLsb', BitVec.getLsbD_append])
  · simp [hi]
  · simp [hi]
  · have a1 : ¬ 64 + i < 32 := by omega
    have a2 : ¬ 64 + i - 32 < 32 := by omega
    have a3 : 64 + i - 32 - 32 = i := by omega
    simp [hi, a1, a2, a3]
  · have a1 : ¬ 96 + i < 32 := by omega
    have a2 : ¬ 96 + i - 32 < 32 := by omega
    have a4 : ¬ 96 + i - 32 - 32 < 32 := by omega
    have a3 : 96 + i - 32 - 32 - 32 = i := by omega
    simp [hi, a1, a2, a3, a4]

end Sys2Proof
end

