-- ==== Sys2Proof/Laws/PerInstr.lean ====
section
/-! SUPPORT. Facts about each command as syntax, one lemma per constructor. LengthFromOp: the number of words a command
encodes to is the length that its OP field alone decides (spec/30_encoding.md R93). -/

namespace Sys2Proof.Laws.LengthFromOp

/-- The encoded command is a first word and as many literal words as its OP field asks for (30_encoding.md R93). -/
def Statement (i : Instr) : Prop :=
  ∃ w rest, encode i = w :: rest ∧ rest.length + 1 = commandLength (opField w)

theorem ofWordR {i : Instr} {op : Nat} {d a b c : Fin 16} {rest : List Word} (h : op < 64)
    (e : encode i = wordR op d a b c :: rest) (l : rest.length + 1 = commandLength op) : Statement i :=
  ⟨_, _, e, by rw [opField_wordR h]; exact l⟩

theorem vzero (d : VReg) : Statement (.vzero d) := ofWordR (by decide) rfl rfl

theorem vmov (d a : VReg) : Statement (.vmov d a) := ofWordR (by decide) rfl rfl

theorem vbcast (d : VReg) (a : XReg) : Statement (.vbcast d a) := ofWordR (by decide) rfl rfl

theorem vlit (d : VReg) (imm : BitVec 128) : Statement (.vlit d imm) := ofWordR (by decide) rfl rfl

theorem vbools (d : VReg) (imm : BitVec 16) : Statement (.vbools d imm) := ⟨_, _, rfl, by rw [opField_wordI (by decide)]; rfl⟩

theorem xli (d : XReg) (imm : BitVec 64) : Statement (.xli d imm) := ofWordR (by decide) rfl rfl

theorem vld (d : VReg) (a : XReg) : Statement (.vld d a) := ofWordR (by decide) rfl rfl

theorem vst (a : VReg) (b : XReg) : Statement (.vst a b) := ofWordR (by decide) rfl rfl

theorem vlda (d : VReg) (a : XReg) : Statement (.vlda d a) := ofWordR (by decide) rfl rfl

theorem vsta (a : VReg) (b : XReg) : Statement (.vsta a b) := ofWordR (by decide) rfl rfl

theorem vldp (d : VReg) (a b : XReg) : Statement (.vldp d a b) := ofWordR (by decide) rfl rfl

theorem vstp (a : VReg) (b c : XReg) : Statement (.vstp a b c) := ofWordR (by decide) rfl rfl

theorem vand (d a b : VReg) : Statement (.vand d a b) := ofWordR (by decide) rfl rfl

theorem vor (d a b : VReg) : Statement (.vor d a b) := ofWordR (by decide) rfl rfl

theorem vxor (d a b : VReg) : Statement (.vxor d a b) := ofWordR (by decide) rfl rfl

theorem vandn (d a b : VReg) : Statement (.vandn d a b) := ofWordR (by decide) rfl rfl

theorem vnot (d a : VReg) : Statement (.vnot d a) := ofWordR (by decide) rfl rfl

theorem vall (d : XReg) (a : VReg) : Statement (.vall d a) := ofWordR (by decide) rfl rfl

theorem vany (d : XReg) (a : VReg) : Statement (.vany d a) := ofWordR (by decide) rfl rfl

theorem vadd (d a b : VReg) : Statement (.vadd d a b) := ofWordR (by decide) rfl rfl

theorem vsub (d a b : VReg) : Statement (.vsub d a b) := ofWordR (by decide) rfl rfl

theorem vneg (d a : VReg) : Statement (.vneg d a) := ofWordR (by decide) rfl rfl

theorem vmul (d a b : VReg) : Statement (.vmul d a b) := ofWordR (by decide) rfl rfl

theorem vshl (d a : VReg) (b : XReg) : Statement (.vshl d a b) := ofWordR (by decide) rfl rfl

theorem vsar (d a : VReg) (b : XReg) : Statement (.vsar d a b) := ofWordR (by decide) rfl rfl

theorem vrotl (d a : VReg) (b : XReg) : Statement (.vrotl d a b) := ofWordR (by decide) rfl rfl

theorem veq (d : XReg) (a b : VReg) : Statement (.veq d a b) := ofWordR (by decide) rfl rfl

theorem vcut (d a : VReg) (b : XReg) : Statement (.vcut d a b) := ofWordR (by decide) rfl rfl

theorem vins (d a : VReg) (b c : XReg) : Statement (.vins d a b c) := ofWordR (by decide) rfl rfl

theorem vext (d : XReg) (a : VReg) (b : XReg) : Statement (.vext d a b) := ofWordR (by decide) rfl rfl

theorem vsel (d a b c : VReg) : Statement (.vsel d a b c) := ofWordR (by decide) rfl rfl

theorem vifadd (d a b c : VReg) : Statement (.vifadd d a b c) := ofWordR (by decide) rfl rfl

theorem vifsub (d a b c : VReg) : Statement (.vifsub d a b c) := ofWordR (by decide) rfl rfl

theorem vifmul (d a b c : VReg) : Statement (.vifmul d a b c) := ofWordR (by decide) rfl rfl

theorem vhadd (d : XReg) (a : VReg) : Statement (.vhadd d a) := ofWordR (by decide) rfl rfl

theorem vhaddx (d : XReg) (a : VReg) : Statement (.vhaddx d a) := ofWordR (by decide) rfl rfl

theorem vadds (d a b : VReg) : Statement (.vadds d a b) := ofWordR (by decide) rfl rfl

theorem vsubs (d a b : VReg) : Statement (.vsubs d a b) := ofWordR (by decide) rfl rfl

theorem vmin (d a b : VReg) : Statement (.vmin d a b) := ofWordR (by decide) rfl rfl

theorem vmax (d a b : VReg) : Statement (.vmax d a b) := ofWordR (by decide) rfl rfl

theorem vabs (d a : VReg) : Statement (.vabs d a) := ofWordR (by decide) rfl rfl

theorem vabss (d a : VReg) : Statement (.vabss d a) := ofWordR (by decide) rfl rfl

theorem vcmpeq (d a b : VReg) : Statement (.vcmpeq d a b) := ofWordR (by decide) rfl rfl

theorem vcmpgt (d a b : VReg) : Statement (.vcmpgt d a b) := ofWordR (by decide) rfl rfl

end Sys2Proof.Laws.LengthFromOp
end

