-- ==== Sys2Proof/Laws/Step.lean ====
section
/-! SUPPORT. What a step can do, said once, and where a stream holds the words that are placed in it. -/

namespace Sys2Proof.Machine

/-- What a step that answers a next state has done: it executed the decoded command, entered `IllegalCommand`, or did
nothing because the block is not running (70_reset_and_hazards.md R318, R322). -/
theorem step_cases {s t : State} (h : step s = .next t) :
    (phase s = .running ∧ ∃ i, decode (fetchWords s) = .ok i ∧ exec i s = .next t) ∨
    (phase s = .running ∧ (∃ e, decode (fetchWords s) = .error e) ∧ t = enterFault s .illegalCommand 0) ∨
    ((phase s = .idle ∨ phase s = .stoppedByFault) ∧ t = s) := by
  unfold step at h
  split at h
  · rename_i hp; cases h; exact .inr (.inr ⟨.inr hp, rfl⟩)
  · rename_i hp; cases h; exact .inr (.inr ⟨.inl hp, rfl⟩)
  · cases h
  · rename_i hp
    split at h
    · rename_i i hi; exact .inl ⟨hp, i, hi, h⟩
    · rename_i e he; cases h; exact .inr (.inl ⟨hp, ⟨e, he⟩, rfl⟩)

theorem step_running {s : State} {i : Instr} (h : phase s = .running) (d : decode (fetchWords s) = .ok i) :
    step s = exec i s := by simp [step, h, d]

theorem step_undecodable {s : State} {e : DecodeError} (h : phase s = .running)
    (d : decode (fetchWords s) = .error e) : step s = .next (enterFault s .illegalCommand 0) := by simp [step, h, d]

theorem step_stopped {s : State} (h : phase s = .stoppedByFault) : step s = .next s := by simp [step, h]

theorem step_idle {s : State} (h : phase s = .idle) : step s = .next s := by simp [step, h]

/-- The words placed at an index stand there. -/
theorem drop_placeWords (n : Nat) (c ws : List Word) :
    (placeWords n c ws).drop n = ws ++ c.drop (n + ws.length) := by
  induction n generalizing c with
  | zero => simp [placeWords]
  | succ n ih =>
    cases c with
    | nil => simp [placeWords, ih]
    | cons w c =>
      rw [show n + 1 + ws.length = n + ws.length + 1 by omega]
      simp [placeWords, ih]

/-- The command placed for the next step is the one the decoder reads from those words. -/
theorem fetchWords_withFetchWord (s : State) (nbits w : Nat) :
    fetchWords (s.withFetchWord nbits w) =
      tableWords nbits w ++ s.stream.drop (s.cix + (tableWords nbits w).length) :=
  drop_placeWords s.cix s.stream (tableWords nbits w)

/-- One more step of a run of any machine. -/
theorem core_run_succ (M : Host.Core) (k : Nat) (s t : M.State) (h : M.step s = .next t) :
    M.run (k + 1) s = M.run k t := by rw [Host.Core.run, h]

/-- One more step of a run. -/
theorem run_succ {k : Nat} {s t : State} (h : step s = .next t) :
    Host.Core.run Sys2Proof.core (k + 1) s = Host.Core.run Sys2Proof.core k t :=
  core_run_succ Sys2Proof.core k s t h

end Sys2Proof.Machine
end

