-- ==== Sys2Proof/Tests/Slice0.lean ====
section
/-! SUPPORT. Tests: the well-formedness checks, the decoding of one written-out word for every command, one-step
results from spec/95_test_vectors.md, and for every statement with hypotheses a witness that they can be met. No
expected value was computed with the model. -/

namespace Sys2Proof.Tests

open Sys2Proof Sys2Proof.Machine Sys2Proof.Claims
open Host (Outcome)

/-! ## Small states -/

/-- After reset, with a stream, some registers and some memory set. -/
def start (ws : List Word) (vs : List (VReg × Vec)) (xs : List (XReg × Scalar)) (m : Memory) : State :=
  xs.foldl (fun s r => setX s r.1 r.2) (vs.foldl (fun s r => setV s r.1 r.2)
    { State.reset with stream := ws, mem := m })

/-- Memory that holds the given bytes from address `a` on, and 0 elsewhere. -/
def bytesAt (a : Nat) (bs : List Lane) : Memory := writeBytes [] a bs

/-- A platform on which bytes 0x3000 to 0x3FFF are not VALID. -/
def holed : Platform :=
  { defaultPlatform with regions := [⟨0, 0x3000, true, true⟩, ⟨0x4000, 2 ^ 64 - 0x4000, true, true⟩] }

/-- What v[r] and `cix` are after one step. -/
def stepV (s : State) (r : VReg) : Option (Option Vec × Nat) :=
  match step s with
  | .next t => some (vreg t r, t.cix)
  | _ => none

/-- What x[r] and `cix` are after one step. -/
def stepX (s : State) (r : XReg) : Option (Option Scalar × Nat) :=
  match step s with
  | .next t => some (xreg t r, t.cix)
  | _ => none

/-- What the `n` bytes at `a` and `cix` are after one step. -/
def stepMem (s : State) (a n : Nat) : Option (List Lane × Nat) :=
  match step s with
  | .next t => some (readBytes t.mem a n, t.cix)
  | _ => none

/-- What STATUS, FAULT_CIX, FAULT_ADDR, FAULT_WORD and `cix` are after one step that leaves registers and memory as
they were. -/
def stepFault (s : State) : Option (BitVec 32 × BitVec 64 × BitVec 64 × BitVec 32 × Nat) :=
  match step s with
  | .next t =>
    if t.v = s.v ∧ t.x = s.x ∧ t.mem = s.mem then some (t.status, t.faultCix, t.faultAddr, t.faultWord, t.cix)
    else none
  | _ => none

/-! ## Well-formedness: one ill-formed command for each check -/

theorem test_wf_no_word : commandWellFormed [] = false := by decide

theorem test_wf_unassigned_op : commandWellFormed [0x1C000000] = false := by decide

theorem test_wf_reserved_bit : commandWellFormed [0x60C48001] = false := by decide

theorem test_wf_unused_field : commandWellFormed [0x04C40000] = false := by decide

theorem test_wf_reserved_bit_format_i : commandWellFormed [0x14C10000] = false := by decide

theorem test_wf_store_with_destination : commandWellFormed [0x24448000] = false := by decide

theorem test_wf_missing_literal : commandWellFormed [0x10400000, 1, 2, 3] = false := by decide

theorem test_wf_surplus_word : commandWellFormed [0x60C48000, 0] = false := by decide

theorem test_wf_vadd : commandWellFormed [0x60C48000] = true := by decide

theorem test_wf_vlit : commandWellFormed [0x10400000, 1, 2, 3, 4] = true := by decide

/-! ## Decoding: one word for every command

The fields of 30_encoding.md R91 and R92 stand apart (OP, D, A, B, C, Z; for VBOOLS OP, D, reserved, IMM16). Operands
are those of the command's row in 95_test_vectors.md. -/

theorem test_decode_vzero : decode [0b000001_0011_0000_0000_0000_0000000000] = .ok (.vzero 3) := by decide

theorem test_decode_vmov : decode [0b000010_0101_0001_0000_0000_0000000000] = .ok (.vmov 5 1) := by decide

theorem test_decode_vbcast : decode [0b000011_0001_0010_0000_0000_0000000000] = .ok (.vbcast 1 2) := by decide

theorem test_decode_vlit :
    decode [0b000100_0000_0000_0000_0000_0000000000, 0x0100FF80, 0x0403027F, 0x08070605, 0x0C0B0A09] =
      .ok (.vlit 0 0x0C0B0A09080706050403027F0100FF80) := by decide

theorem test_decode_vbools : decode [0b000101_0011_000000_1000000000000001] = .ok (.vbools 3 0x8001) := by decide

theorem test_decode_xli :
    decode [0b000110_0100_0000_0000_0000_0000000000, 0x9ABCDEF0, 0x12345678] =
      .ok (.xli 4 0x123456789ABCDEF0) := by decide

theorem test_decode_vld : decode [0b001000_0001_0010_0000_0000_0000000000] = .ok (.vld 1 2) := by decide

theorem test_decode_vst : decode [0b001001_0000_0001_0010_0000_0000000000] = .ok (.vst 1 2) := by decide

theorem test_decode_vlda : decode [0b001010_0001_0010_0000_0000_0000000000] = .ok (.vlda 1 2) := by decide

theorem test_decode_vsta : decode [0b001011_0000_0000_0010_0000_0000000000] = .ok (.vsta 0 2) := by decide

theorem test_decode_vldp : decode [0b001100_0001_0010_0011_0000_0000000000] = .ok (.vldp 1 2 3) := by decide

theorem test_decode_vstp : decode [0b001101_0000_0001_0100_0011_0000000000] = .ok (.vstp 1 4 3) := by decide

theorem test_decode_vand : decode [0b010000_0011_0001_0010_0000_0000000000] = .ok (.vand 3 1 2) := by decide

theorem test_decode_vor : decode [0b010001_0011_0001_0010_0000_0000000000] = .ok (.vor 3 1 2) := by decide

theorem test_decode_vxor : decode [0b010010_0011_0001_0001_0000_0000000000] = .ok (.vxor 3 1 1) := by decide

theorem test_decode_vandn : decode [0b010011_0011_0001_0010_0000_0000000000] = .ok (.vandn 3 1 2) := by decide

theorem test_decode_vnot : decode [0b010100_0011_0001_0000_0000_0000000000] = .ok (.vnot 3 1) := by decide

theorem test_decode_vall : decode [0b010101_0100_0001_0000_0000_0000000000] = .ok (.vall 4 1) := by decide

theorem test_decode_vany : decode [0b010110_0100_0001_0000_0000_0000000000] = .ok (.vany 4 1) := by decide

theorem test_decode_vadd : decode [0b011000_0011_0001_0010_0000_0000000000] = .ok (.vadd 3 1 2) := by decide

theorem test_decode_vsub : decode [0b011001_0011_0001_0010_0000_0000000000] = .ok (.vsub 3 1 2) := by decide

theorem test_decode_vneg : decode [0b011010_0011_0001_0000_0000_0000000000] = .ok (.vneg 3 1) := by decide

theorem test_decode_vmul : decode [0b011011_0011_0001_0010_0000_0000000000] = .ok (.vmul 3 1 2) := by decide

theorem test_decode_vshl : decode [0b011100_0011_0001_0010_0000_0000000000] = .ok (.vshl 3 1 2) := by decide

theorem test_decode_vsar : decode [0b011101_0011_0001_0010_0000_0000000000] = .ok (.vsar 3 1 2) := by decide

theorem test_decode_vrotl : decode [0b011110_0011_0001_0010_0000_0000000000] = .ok (.vrotl 3 1 2) := by decide

theorem test_decode_veq : decode [0b011111_0100_0001_0010_0000_0000000000] = .ok (.veq 4 1 2) := by decide

theorem test_decode_vcut : decode [0b100000_0010_0001_0011_0000_0000000000] = .ok (.vcut 2 1 3) := by decide

theorem test_decode_vins : decode [0b100001_0010_0001_0010_0011_0000000000] = .ok (.vins 2 1 2 3) := by decide

theorem test_decode_vext : decode [0b100010_0101_0001_0010_0000_0000000000] = .ok (.vext 5 1 2) := by decide

theorem test_decode_vsel : decode [0b100100_0100_0001_0010_0011_0000000000] = .ok (.vsel 4 1 2 3) := by decide

theorem test_decode_vifadd : decode [0b100101_0100_0001_0010_0011_0000000000] = .ok (.vifadd 4 1 2 3) := by decide

theorem test_decode_vifsub : decode [0b100110_0100_0001_0010_0011_0000000000] = .ok (.vifsub 4 1 2 3) := by decide

theorem test_decode_vifmul : decode [0b100111_0100_0001_0010_0011_0000000000] = .ok (.vifmul 4 1 2 3) := by decide

theorem test_decode_vhadd : decode [0b101000_0100_0001_0000_0000_0000000000] = .ok (.vhadd 4 1) := by decide

theorem test_decode_vhaddx : decode [0b101001_0101_0001_0000_0000_0000000000] = .ok (.vhaddx 5 1) := by decide

theorem test_decode_vadds : decode [0b101010_0011_0001_0010_0000_0000000000] = .ok (.vadds 3 1 2) := by decide

theorem test_decode_vsubs : decode [0b101011_0011_0001_0010_0000_0000000000] = .ok (.vsubs 3 1 2) := by decide

theorem test_decode_vmin : decode [0b101100_0011_0001_0010_0000_0000000000] = .ok (.vmin 3 1 2) := by decide

theorem test_decode_vmax : decode [0b101101_0011_0001_0010_0000_0000000000] = .ok (.vmax 3 1 2) := by decide

theorem test_decode_vabs : decode [0b101110_0011_0001_0000_0000_0000000000] = .ok (.vabs 3 1) := by decide

theorem test_decode_vabss : decode [0b101111_0011_0001_0000_0000_0000000000] = .ok (.vabss 3 1) := by decide

theorem test_decode_vcmpeq : decode [0b110000_0011_0001_0010_0000_0000000000] = .ok (.vcmpeq 3 1 2) := by decide

theorem test_decode_vcmpgt : decode [0b110001_0011_0001_0010_0000_0000000000] = .ok (.vcmpgt 3 1 2) := by decide

/-! ## Words that are no command (30_encoding.md R97 to R99) -/

theorem test_reject_all_zeros : decode [0x00000000] = .error (.unassignedOp 0x00) := by decide

theorem test_reject_unassigned : decode [0x1C000000] = .error (.unassignedOp 0x07) := by decide

theorem test_reject_last_op : decode [0xFC000000] = .error (.unassignedOp 0x3F) := by decide

theorem test_reject_reserved_bit : decode [0x60C48001] = .error .reservedBits := by decide

theorem test_reject_unused_field : decode [0x04C40000] = .error .reservedBits := by decide

theorem test_reject_format_i : decode [0x14C10000] = .error .reservedBits := by decide

theorem test_reject_store_destination : decode [0x24448000] = .error .reservedBits := by decide

theorem test_reject_truncated_vlit :
    decode [0x10400000, 0x0D0E0F10, 0x090A0B0C, 0x05060708] = .error .truncated := by decide

theorem test_reject_truncated_xli : decode [0x18400000, 0x00000007] = .error .truncated := by decide

/-! ## The opcode table's numbering of bits -/

theorem test_table_vsel : decodeTableWord 32 0x91048C00 = some (.vsel 4 1 2 3) := by decide

theorem test_table_vlit_zero_literal : decodeTableWord 32 0x10400000 = some (.vlit 1 0) := by decide

theorem test_table_xli : decodeTableWord 96 0x123456789ABCDEF019000000 = some (.xli 4 0x123456789ABCDEF0) := by decide

theorem test_fetch_word : stepX (State.reset.withFetchWord 96 0x123456789ABCDEF019000000) 4 =
    some (some 0x123456789ABCDEF0, 3) := by decide

/-! ## One step -/

/-! ### 40_bitregister128.md -/

/-- 95_test_vectors.md, VZERO row. -/
theorem test_vzero :
    stepV (start [0x04C00000] [] [] []) 3 = some (some 0x00000000000000000000000000000000, 1) := by decide

/-- 95_test_vectors.md, VLD row 1: an unaligned address is accepted. -/
theorem test_vld_unaligned :
    stepV (start [0x20480000] [] [(2, 0x1003)]
      (bytesAt 0x1003 [0x00, 0x01, 0x02, 0x03, 0x04, 0x05, 0x06, 0x07, 0x08, 0x09, 0x0A, 0x0B, 0x0C, 0x0D, 0x0E, 0x0F])) 1 =
      some (some 0x0F0E0D0C0B0A09080706050403020100, 1) := by decide

/-- 95_test_vectors.md, VLD row 2: the base address of a footprint that wraps is recorded. -/
theorem test_vld_wraps :
    stepFault (start [0x20480000] [] [(2, 0xFFFFFFFFFFFFFFF8)] []) =
      some (0x00000061, 0, 0xFFFFFFFFFFFFFFF8, 0x20480000, 0) := by decide

/-- 95_test_vectors.md, VST row 1: the bytes beside the footprint are untouched. -/
theorem test_vst_unaligned :
    stepMem (start [0x24048000] [(1, 0x0F0E0D0C0B0A09080706050403020100)] [(2, 0x2001)] []) 0x2000 18 =
      some ([0x00, 0x00, 0x01, 0x02, 0x03, 0x04, 0x05, 0x06, 0x07, 0x08, 0x09, 0x0A, 0x0B, 0x0C, 0x0D, 0x0E,
      0x0F, 0x00], 1) := by decide

/-- 95_test_vectors.md, VST row 2: the lowest byte that is not VALID is recorded. -/
theorem test_vst_lowest_invalid :
    stepFault { start [0x24048000] [(1, 0x0F0E0D0C0B0A09080706050403020100)] [(2, 0x2FF8)] [] with platform := holed } =
      some (0x00000061, 0, 0x3000, 0x24048000, 0) := by decide

/-- 95_test_vectors.md, VLDA row 1. -/
theorem test_vlda_aligned :
    stepV (start [0x28480000] [] [(2, 0x1010)]
      (bytesAt 0x1010 [0xA0, 0xA1, 0xA2, 0xA3, 0xA4, 0xA5, 0xA6, 0xA7, 0xA8, 0xA9, 0xAA, 0xAB, 0xAC, 0xAD, 0xAE, 0xAF])) 1 =
      some (some 0xAFAEADACABAAA9A8A7A6A5A4A3A2A1A0, 1) := by decide

/-- 95_test_vectors.md, VLDA row 3: misalignment is reported before an invalid byte. -/
theorem test_vlda_misaligned_first :
    stepFault { start [0x28480000] [] [(2, 0x3008)] [] with platform := holed } =
      some (0x00000051, 0, 0x3008, 0x28480000, 0) := by decide

/-- 95_test_vectors.md, VSTA row 1. -/
theorem test_vsta_aligned :
    stepMem (start [0x2C008000] [(0, 0xFFFFFFFFFFFFFFFFFFFFFFFFFFFFFFFF)] [(2, 0x2000)] []) 0x2000 16 =
      some ([0xFF, 0xFF, 0xFF, 0xFF, 0xFF, 0xFF, 0xFF, 0xFF, 0xFF, 0xFF, 0xFF, 0xFF, 0xFF, 0xFF, 0xFF, 0xFF],
      1) := by decide

/-- 95_test_vectors.md, VSTA row 2. -/
theorem test_vsta_misaligned :
    stepFault (start [0x2C008000] [(0, 0xFFFFFFFFFFFFFFFFFFFFFFFFFFFFFFFF)] [(2, 0x2004)] []) =
      some (0x00000051, 0, 0x2004, 0x2C008000, 0) := by decide

/-- 95_test_vectors.md, VAND row. -/
theorem test_vand :
    stepV (start [0x40C48000] [(1, 0x00000000000000000000000000FF00F0), (2,
      0x0000000000000000000000000F0F0F0F)] [] []) 3 =
      some (some 0x000000000000000000000000000F0000, 1) := by decide

/-- 95_test_vectors.md, VOR row. -/
theorem test_vor :
    stepV (start [0x44C48000] [(1, 0x00000000000000000000000000008001), (2,
      0x00000000000000000000000000000110)] [] []) 3 =
      some (some 0x00000000000000000000000000008111, 1) := by decide

/-- 95_test_vectors.md, VXOR row: the same register twice gives zero. -/
theorem test_vxor_same :
    stepV (start [0x48C44000] [(1, 0x0F0E0D0C0B0A09080706050403020100)] [] []) 3 =
      some (some 0x00000000000000000000000000000000, 1) := by decide

/-- 95_test_vectors.md, VANDN row: the second operand is complemented. -/
theorem test_vandn :
    stepV (start [0x4CC48000] [(1, 0xFFFFFFFFFFFFFFFFFFFFFFFFFFFFFFFF), (2,
      0x000000000000000000000000FF00F00F)] [] []) 3 =
      some (some 0xFFFFFFFFFFFFFFFFFFFFFFFF00FF0FF0, 1) := by decide

/-- 95_test_vectors.md, VNOT row. -/
theorem test_vnot :
    stepV (start [0x50C40000] [(1, 0x00000000000000000000000000000000)] [] []) 3 =
      some (some 0xFFFFFFFFFFFFFFFFFFFFFFFFFFFFFFFF, 1) := by decide

/-- 95_test_vectors.md, VALL row 1. -/
theorem test_vall_all :
    stepX (start [0x55040000] [(1, 0xFFFFFFFFFFFFFFFFFFFFFFFFFFFFFFFF)] [] []) 4 = some (some 0x1, 1) := by decide

/-- 95_test_vectors.md, VALL row 2: bit 127 is clear. -/
theorem test_vall_one_clear :
    stepX (start [0x55040000] [(1, 0x7FFFFFFFFFFFFFFFFFFFFFFFFFFFFFFF)] [] []) 4 = some (some 0x0, 1) := by decide

/-- 95_test_vectors.md, VANY row 1. -/
theorem test_vany_none :
    stepX (start [0x59040000] [(1, 0x00000000000000000000000000000000)] [] []) 4 = some (some 0x0, 1) := by decide

/-- 95_test_vectors.md, VANY row 2: bit 127 alone is set. -/
theorem test_vany_top_bit :
    stepX (start [0x59040000] [(1, 0x80000000000000000000000000000000)] [] []) 4 = some (some 0x1, 1) := by decide

/-! ### 41_lane_construct_memory.md -/

/-- 95_test_vectors.md, VBCAST row 2: only the low 8 bits count. -/
theorem test_vbcast_low_byte :
    stepV (start [0x0C480000] [] [(2, 0x1FF)] []) 1 = some (some 0xFFFFFFFFFFFFFFFFFFFFFFFFFFFFFFFF, 1) := by decide

/-- 95_test_vectors.md, VLI row: the first literal word holds lanes 0 to 3. -/
theorem test_vlit :
    stepV (start [0x10000000, 0x0100FF80, 0x0403027F, 0x08070605, 0x0C0B0A09] [] [] []) 0 =
      some (some 0x0C0B0A09080706050403027F0100FF80, 5) := by decide

/-- 95_test_vectors.md, VMOV row 1: no mask check. -/
theorem test_vmov :
    stepV (start [0x09440000] [(1, 0x0000000000000000000000000000017F)] [] []) 5 =
      some (some 0x0000000000000000000000000000017F, 1) := by decide

/-- 95_test_vectors.md, VMOV row 2: an unwritten source. -/
theorem test_vmov_unwritten :
    stepFault (start [0x09440000] [] [] []) = some (0x00000021, 0, 0x0, 0x09440000, 0) := by decide

/-- 95_test_vectors.md, VLDP row with x3 = 5. -/
theorem test_vldp_five :
    stepV (start [0x3048C000] [] [(2, 0x1000), (3, 0x5)]
      (bytesAt 0x1000 [0x10, 0x11, 0x12, 0x13, 0x14, 0x15, 0x16, 0x17, 0x18, 0x19, 0x1A, 0x1B, 0x1C, 0x1D, 0x1E, 0x1F])) 1 =
      some (some 0x00000000000000000000001413121110, 1) := by decide

/-- 95_test_vectors.md, VLDP row with x2 = 0x2FFC, x3 = 4 and OVERREAD = true: the two ends lie in different pages. -/
theorem test_vldp_no_overread_across_pages :
    stepV { start [0x3048C000] [] [(2, 0x2FFC), (3, 0x4)]
      (bytesAt 0x2FFC [0x01, 0x02, 0x03, 0x04]) with platform := { holed with overread := true } } 1 =
      some (some 0x00000000000000000000000004030201, 1) := by decide

/-- 95_test_vectors.md, VSTP row with x3 = 3. -/
theorem test_vstp_three :
    stepMem (start [0x34050C00] [(1, 0x100F0E0D0C0B0A090807060504030201)] [(4, 0x5000), (3, 0x3)]
      (bytesAt 0x5000 [0xAA, 0xAA, 0xAA, 0xAA, 0xAA, 0xAA, 0xAA, 0xAA, 0xAA, 0xAA, 0xAA, 0xAA, 0xAA, 0xAA, 0xAA, 0xAA, 0xAA])) 0x5000 5 =
      some ([0x01, 0x02, 0x03, 0xAA, 0xAA], 1) := by decide

/-- 95_test_vectors.md, VSTP last row. -/
theorem test_vstp_lowest_invalid :
    stepFault { start [0x34050C00] [(1, 0x100F0E0D0C0B0A090807060504030201)] [(4, 0x2FFE), (3, 0x3)] [] with
      platform := holed } =
      some (0x00000061, 0, 0x3000, 0x34050C00, 0) := by decide

/-- 95_test_vectors.md, E2, n = 7. -/
theorem test_vcut_seven :
    stepV (start [0x8084C000] [(1, 0x100F0E0D0C0B0A090807060504030201)] [(3, 0x7)] []) 2 =
      some (some 0x00000000000000000007060504030201, 1) := by decide

/-- 95_test_vectors.md, E2, n = -1. -/
theorem test_vcut_negative :
    stepV (start [0x8084C000] [(1, 0x100F0E0D0C0B0A090807060504030201)] [(3, 0xFFFFFFFFFFFFFFFF)] []) 2 =
      some (some 0x00000000000000000000000000000000, 1) := by decide

/-- 95_test_vectors.md, VINS row with x2 = -1: lane 15, low 8 bits. -/
theorem test_vins_minus_one :
    stepV (start [0x84848C00] [(1, 0x0F0E0D0C0B0A09080706050403020100)] [(2, 0xFFFFFFFFFFFFFFFF), (3, 0x1FF)] []) 2 =
      some (some 0xFF0E0D0C0B0A09080706050403020100, 1) := by decide

/-- 95_test_vectors.md, VINS last row: the destination is the source. -/
theorem test_vins_same_register :
    stepV (start [0x84448C00] [(1, 0x0F0E0D0C0B0A09080706050403020100)] [(2, 0x3), (3, 0xFFFFFFFFFFFFFFFD)] []) 1 =
      some (some 0x0F0E0D0C0B0A090807060504FD020100, 1) := by decide

/-- 95_test_vectors.md, VEXT row with x2 = -1. -/
theorem test_vext_minus_one :
    stepX (start [0x89448000] [(1, 0xFF0E0D0C0B0A09080706050403020180)] [(2, 0xFFFFFFFFFFFFFFFF)] []) 5 =
      some (some 0xFFFFFFFFFFFFFFFF, 1) := by decide

/-- 95_test_vectors.md, VEXT row with x2 = 16: lane 0, sign-extended. -/
theorem test_vext_sixteen :
    stepX (start [0x89448000] [(1, 0xFF0E0D0C0B0A09080706050403020180)] [(2, 0x10)] []) 5 =
      some (some 0xFFFFFFFFFFFFFF80, 1) := by decide

/-! ### 42_lane_arith.md -/

/-- 95_test_vectors.md, VADD row 1. -/
theorem test_vadd_wraps :
    stepV (start [0x60C48000] [(1, 0x0000000000000000000000FF0180807F), (2,
      0x0000000000000000000000010280FF01)] [] []) 3 =
      some (some 0x00000000000000000000000003007F80, 1) := by decide

/-- 95_test_vectors.md, VADD row 2: every operand is one register. -/
theorem test_vadd_same_register :
    stepV (start [0x60444000] [(1, 0x000000000000000000000001807FC040)] [] []) 1 =
      some (some 0x00000000000000000000000200FE8080, 1) := by decide

/-- 95_test_vectors.md, VSUB row. -/
theorem test_vsub_wraps :
    stepV (start [0x64C48000] [(1, 0x00000000000000000000000005007F80), (2,
      0x0000000000000000000000000780FF01)] [] []) 3 =
      some (some 0x000000000000000000000000FE80807F, 1) := by decide

/-- 95_test_vectors.md, VNEG row: -128 stays -128. -/
theorem test_vneg :
    stepV (start [0x68C40000] [(1, 0x00000000000000000000007F8000FF01)] [] []) 3 =
      some (some 0x000000000000000000000081800001FF, 1) := by decide

/-- 95_test_vectors.md, VMUL row. -/
theorem test_vmul_wraps :
    stepV (start [0x6CC48000] [(1, 0x0000000000000000000BFF031080807F), (2,
      0x0000000000000000000CFFFB1080FF7F)] [] []) 3 =
      some (some 0x0000000000000000008401F100008001, 1) := by decide

/-- 95_test_vectors.md, VEQ row 1. -/
theorem test_veq_equal :
    stepX (start [0x7D048000] [(1, 0x03030303030303030303030303030303), (2,
      0x03030303030303030303030303030303)] [] []) 4 =
      some (some 0x1, 1) := by decide

/-- 95_test_vectors.md, VEQ row 2: lane 15 differs. -/
theorem test_veq_last_lane :
    stepX (start [0x7D048000] [(1, 0x03030303030303030303030303030303), (2,
      0x02030303030303030303030303030303)] [] []) 4 =
      some (some 0x0, 1) := by decide

/-- 95_test_vectors.md, VSHL row with x2 = 7. -/
theorem test_vshl_seven :
    stepV (start [0x70C48000] [(1, 0x000000000000000000000000FF814001)] [(2, 0x7)] []) 3 =
      some (some 0x00000000000000000000000080800080, 1) := by decide

/-- 95_test_vectors.md, VSHL row with x2 = 8. -/
theorem test_vshl_eight :
    stepFault (start [0x70C48000] [(1, 0x00000000000000000000000000000001)] [(2, 0x8)] []) =
      some (0x00000031, 0, 0x0, 0x70C48000, 0) := by decide

/-- 95_test_vectors.md, VSAR row with x2 = 2: rounding toward minus infinity. -/
theorem test_vsar_two :
    stepV (start [0x74C48000] [(1, 0x000000000000000000000540FF7FFB80)] [(2, 0x2)] []) 3 =
      some (some 0x000000000000000000000110FF1FFEE0, 1) := by decide

/-- 95_test_vectors.md, VSAR last row. -/
theorem test_vsar_negative :
    stepFault (start [0x74C48000] [(1, 0x00000000000000000000000000000001)] [(2, 0x8000000000000000)] []) =
      some (0x00000031, 0, 0x0, 0x74C48000, 0) := by decide

/-! ### 43_boolean_select.md -/

/-- 95_test_vectors.md, VBOOLS row with 0x8001. -/
theorem test_vbools :
    stepV (start [0x14C08001] [] [] []) 3 = some (some 0xFF0000000000000000000000000000FF, 1) := by decide

/-- 95_test_vectors.md, VSEL row 1. -/
theorem test_vsel :
    stepV (start [0x91048C00] [(3, 0x0000000000000000FFFFFFFFFFFFFFFF), (1,
      0x01010101010101010101010101010101), (2, 0x02020202020202020202020202020202)] [] []) 4 =
      some (some 0x02020202020202020101010101010101, 1) := by decide

/-- 95_test_vectors.md, VSEL row 2. -/
theorem test_vsel_bad_mask :
    stepFault (start [0x91048C00] [(3, 0x0000000000000000000000000000007F), (1,
      0x01010101010101010101010101010101), (2, 0x02020202020202020202020202020202)] [] []) =
      some (0x00000041, 0, 0x0, 0x91048C00, 0) := by decide

/-- 95_test_vectors.md, VIFADD row. -/
theorem test_vifadd :
    stepV (start [0x95048C00] [(3, 0x00000000000000000000000000FF00FF), (1,
      0x000000000000000000000000000A057F), (2, 0x00000000000000000000000000010101)] [] []) 4 =
      some (some 0x000000000000000000000000000B0580, 1) := by decide

/-- 95_test_vectors.md, VIFSUB row. -/
theorem test_vifsub :
    stepV (start [0x99048C00] [(3, 0x0000000000000000000000000000FFFF), (1,
      0x000000000000000000000000000A0A80), (2, 0x00000000000000000000000000030301)] [] []) 4 =
      some (some 0x000000000000000000000000000A077F, 1) := by decide

/-- 95_test_vectors.md, VIFMUL row 1: false lanes keep the first operand. -/
theorem test_vifmul :
    stepV (start [0x9D048C00] [(3, 0x000000000000000000000000000000FF), (1,
      0x00000000000000000000000000000A0A), (2, 0x00000000000000000000000000070D0D)] [] []) 4 =
      some (some 0x00000000000000000000000000000A82, 1) := by decide

/-- 95_test_vectors.md, VIFMUL row 2. -/
theorem test_vifmul_bad_mask :
    stepFault (start [0x9D048C00] [(3, 0x0000000000000000000000000000FEFF), (1,
      0x00000000000000000000000000000A0A), (2, 0x00000000000000000000000000070D0D)] [] []) =
      some (0x00000041, 0, 0x0, 0x9D048C00, 0) := by decide

/-- 95_test_vectors.md, VCMPEQ row. -/
theorem test_vcmpeq :
    stepV (start [0xC0C48000] [(1, 0x00000000000000000000000080030201), (2,
      0x0000000000000000000000007F030001)] [] []) 3 =
      some (some 0xFFFFFFFFFFFFFFFFFFFFFFFF00FF00FF, 1) := by decide

/-- 95_test_vectors.md, VCMPGT row. -/
theorem test_vcmpgt_signed :
    stepV (start [0xC4C48000] [(1, 0x0000000000000000000000FF007F8001), (2,
      0x0000000000000000000000FE00807FFF)] [] []) 3 =
      some (some 0x0000000000000000000000FF00FF00FF, 1) := by decide

/-! ### 44_reduce_saturate.md -/

/-- 95_test_vectors.md, VHADD row 1. -/
theorem test_vhadd_wraps :
    stepX (start [0xA1040000] [(1, 0x08080808080808080808080808080808)] [] []) 4 =
      some (some 0xFFFFFFFFFFFFFF80, 1) := by decide

/-- 95_test_vectors.md, VHADD row 3. -/
theorem test_vhadd_all_127 :
    stepX (start [0xA1040000] [(1, 0x7F7F7F7F7F7F7F7F7F7F7F7F7F7F7F7F)] [] []) 4 =
      some (some 0xFFFFFFFFFFFFFFF0, 1) := by decide

/-- 95_test_vectors.md, VHADDX row 2. -/
theorem test_vhaddx_exact :
    stepX (start [0xA5440000] [(1, 0x80808080808080808080808080808080)] [] []) 5 =
      some (some 0xFFFFFFFFFFFFF800, 1) := by decide

/-- 95_test_vectors.md, VADDS row. -/
theorem test_vadds :
    stepV (start [0xA8C48000] [(1, 0x000000000000000000007F059C64807F), (2,
      0x0000000000000000000080F99C64FF01)] [] []) 3 =
      some (some 0x00000000000000000000FFFE807F807F, 1) := by decide

/-- 95_test_vectors.md, VSUBS row. -/
theorem test_vsubs :
    stepV (start [0xACC48000] [(1, 0x0000000000000000000000FF05007F80), (2,
      0x00000000000000000000007F0780FF01)] [] []) 3 =
      some (some 0x000000000000000000000080FE7F7F80, 1) := by decide

/-- 95_test_vectors.md, VMIN row. -/
theorem test_vmin_signed :
    stepV (start [0xB0C48000] [(1, 0x0000000000000000000000007F0580FF), (2,
      0x00000000000000000000000080057F01)] [] []) 3 =
      some (some 0x000000000000000000000000800580FF, 1) := by decide

/-- 95_test_vectors.md, VMAX row. -/
theorem test_vmax_signed :
    stepV (start [0xB4C48000] [(1, 0x0000000000000000000000007F0580FF), (2,
      0x00000000000000000000000080057F01)] [] []) 3 =
      some (some 0x0000000000000000000000007F057F01, 1) := by decide

/-- 95_test_vectors.md, VABS row. -/
theorem test_vabs :
    stepV (start [0xB8C40000] [(1, 0x000000000000000000000000818005FB)] [] []) 3 =
      some (some 0x0000000000000000000000007F800505, 1) := by decide

/-- 95_test_vectors.md, VABSS row. -/
theorem test_vabss :
    stepV (start [0xBCC40000] [(1, 0x000000000000000000000000818005FB)] [] []) 3 =
      some (some 0x0000000000000000000000007F7F0505, 1) := by decide

/-- 95_test_vectors.md, VROTL row with x2 = 3. -/
theorem test_vrotl_three :
    stepV (start [0x78C48000] [(1, 0x0000000000000000000000007F800181)] [(2, 0x3)] []) 3 =
      some (some 0x000000000000000000000000FB04080C, 1) := by decide

/-- 95_test_vectors.md, VROTL row with x2 = -1. -/
theorem test_vrotl_minus_one :
    stepV (start [0x78C48000] [(1, 0x0000000000000000000000007F800181)] [(2, 0xFFFFFFFFFFFFFFFF)] []) 3 =
      some (some 0x000000000000000000000000BF4080C0, 1) := by decide

/-! ### 45_scalar_interface.md -/

/-- 95_test_vectors.md, XLI row 3. -/
theorem test_xli :
    stepX (start [0x19000000, 0x9ABCDEF0, 0x12345678] [] [] []) 4 = some (some 0x123456789ABCDEF0, 3) := by decide

/-! ### 30_encoding.md and 60_exceptions.md -/

/-- 95_test_vectors.md, raw words row 1. -/
theorem test_all_zeros_word :
    stepFault (start [0x00000000] [] [] []) = some (0x00000011, 0, 0x0, 0x00000000, 0) := by decide

/-- 95_test_vectors.md, XLI with one of its two literal words. -/
theorem test_truncated_xli :
    stepFault (start [0x18400000, 0x00000007] [] [] []) = some (0x00000011, 0, 0x0, 0x18400000, 0) := by decide

/-! ## Hosts -/

/-- 70_reset_and_hazards.md R317: a start while a fault is recorded changes nothing. -/
theorem test_start_after_fault :
    startRun (enterFault State.reset .illegalCommand 0) [0x04C00000] = enterFault State.reset .illegalCommand 0 := by
  decide

/-- 70_reset_and_hazards.md R311: after a fault and a reset the state is the one right after reset. -/
theorem test_reset_after_fault : resetBlock (enterFault State.reset .memoryFault 5) = State.reset := by decide

/-! ## Witnesses: for every statement with hypotheses, states and operands that meet them

v1 and v2 are written, v3 is a mask, v4 is none, v0 is unwritten; x1 holds what the witness needs. -/

/-- Vector registers as said above, and x1 = `n`, x2 = `k`. -/
def held (n k : Scalar) : State :=
  start [] [(1, 0x0F0E0D0C0B0A09080706050403020100), (2, 0x100F0E0D0C0B0A090807060504030201),
    (3, 0x0000000000000000FFFFFFFFFFFFFFFF), (4, 0x7F)] [(1, n), (2, k)] [(0x1003, 5)]

/-- The same state with the hole in what is VALID. -/
def heldHoled (n k : Scalar) : State := { held n k with platform := holed }

/-- The same state with OVERREAD. -/
def heldOverread (n k : Scalar) : State := { held n k with platform := { holed with overread := true } }

/-- A block that has stopped with a fault. -/
def stopped : State := enterFault (start [0] [] [] []) .illegalCommand 0

/-- A block that is running, about to execute VZERO v3. -/
def running : State := start [0x04C00000] [] [] [(7, 1)]

theorem witness_VldLoadsSixteenBytes :
    (xreg (held 0x1003 0) 1 = some 0x1003 ∧ Accessible (held 0x1003 0) 0x1003 16 .read) ∧
    (xreg (held (-16) 0) 1 = some (-16) ∧ Accessible (held (-16) 0) (2 ^ 64 - 16) 16 .read) ∧
    (xreg (held (-15) 0) 1 = some (-15) ∧ 2 ^ 64 < (-15 : Scalar).toNat + 16) ∧
    (xreg (heldHoled 0x2FF8 0) 1 = some 0x2FF8 ∧ LowestInvalid (heldHoled 0x2FF8 0) 0x2FF8 16 8 .read) ∧
    xreg (held 0 0) 0 = none := by decide

theorem witness_VstStoresSixteenBytes :
    (vreg (held 0x2001 0) 1 = some 0x0F0E0D0C0B0A09080706050403020100 ∧ xreg (held 0x2001 0) 1 = some 0x2001 ∧
      Memory.wf (held 0x2001 0).mem = true ∧ Accessible (held 0x2001 0) 0x2001 16 .write) ∧
    Accessible (held (-16) 0) (2 ^ 64 - 16) 16 .write ∧ 2 ^ 64 < (-15 : Scalar).toNat + 16 ∧
    LowestInvalid (heldHoled 0x2FF8 0) 0x2FF8 16 8 .write ∧
    vreg (held 0 0) 0 = none ∧ xreg (held 0 0) 0 = none := by decide

theorem witness_VldaLoadsAlignedBytes :
    (xreg (held 0x1008 0) 1 = some 0x1008 ∧ (0x1008 : Scalar).toNat % 16 ≠ 0) ∧
    (xreg (held 0x1010 0) 1 = some 0x1010 ∧ (0x1010 : Scalar).toNat % 16 = 0 ∧
      Accessible (held 0x1010 0) 0x1010 16 .read) ∧
    ((-16 : Scalar).toNat % 16 = 0 ∧ Accessible (held (-16) 0) (2 ^ 64 - 16) 16 .read) ∧
    (xreg (heldHoled 0x3000 0) 1 = some 0x3000 ∧ LowestInvalid (heldHoled 0x3000 0) 0x3000 16 0 .read) ∧
    xreg (held 0 0) 0 = none := by decide

theorem witness_VstaStoresAlignedBytes :
    (vreg (held 0x1008 0) 1 = some 0x0F0E0D0C0B0A09080706050403020100 ∧ xreg (held 0x1008 0) 1 = some 0x1008 ∧
      (0x1008 : Scalar).toNat % 16 ≠ 0) ∧
    (xreg (held 0x1010 0) 1 = some 0x1010 ∧ (0x1010 : Scalar).toNat % 16 = 0 ∧
      Memory.wf (held 0x1010 0).mem = true ∧ Accessible (held 0x1010 0) 0x1010 16 .write) ∧
    LowestInvalid (heldHoled 0x3FF0 0) 0x3FF0 16 0 .write ∧
    vreg (held 0 0) 0 = none ∧ xreg (held 0 0) 0 = none := by decide

/-- What every rule of one, two or three vector operands asks for. -/
theorem witness_vector_operands :
    vreg (held 0 0) 1 = some 0x0F0E0D0C0B0A09080706050403020100 ∧
    vreg (held 0 0) 2 = some 0x100F0E0D0C0B0A090807060504030201 ∧ vreg (held 0 0) 0 = none := by decide

theorem witness_BitwiseCommandsCombineBits :
    vreg (held 0 0) 1 = some 0x0F0E0D0C0B0A09080706050403020100 ∧
    vreg (held 0 0) 2 = some 0x100F0E0D0C0B0A090807060504030201 ∧ vreg (held 0 0) 0 = none := witness_vector_operands

theorem witness_VnotComplementsBits :
    vreg (held 0 0) 1 = some 0x0F0E0D0C0B0A09080706050403020100 ∧ vreg (held 0 0) 0 = none := by decide

theorem witness_BitTestsWriteOneOrZero :
    (vreg (start [] [(1, BitVec.allOnes 128)] [] []) 1 = some (BitVec.allOnes 128) ∧
      ∀ j < 128, (BitVec.allOnes 128).getLsbD j = true) ∧
    (vreg (start [] [(1, 0)] [] []) 1 = some 0 ∧ ∀ j < 128, (0 : Vec).getLsbD j = false) ∧
    (vreg (held 0 0) 1 = some 0x0F0E0D0C0B0A09080706050403020100 ∧
      (0x0F0E0D0C0B0A09080706050403020100 : Vec).getLsbD 127 = false ∧
      (0x0F0E0D0C0B0A09080706050403020100 : Vec).getLsbD 8 = true) ∧
    vreg (held 0 0) 0 = none := by decide

theorem witness_VbcastCopiesLowByte : xreg (held (-1) 0) 1 = some (-1) ∧ xreg (held 0 0) 0 = none := by decide

theorem witness_VlitWritesLiteral :
    (([] : List Word).length < 4 ∧ (start [0x10400000] [] [] []).status.getLsbD 0 = false ∧
      (start [0x10400000] [] [] []).stream.drop (start [0x10400000] [] [] []).cix = firstWordR 0x04 1 0 0 0 :: []) ∧
    (([1, 2, 3] : List Word).length < 4 ∧ (start [0x10400000, 1, 2, 3] [] [] []).status.getLsbD 0 = false ∧
      (start [0x10400000, 1, 2, 3] [] [] []).stream.drop (start [0x10400000, 1, 2, 3] [] [] []).cix =
        firstWordR 0x04 1 0 0 0 :: [1, 2, 3]) := by decide

theorem witness_VmovCopiesRegister :
    vreg (held 0 0) 4 = some 0x7F ∧ vreg (held 0 0) 0 = none := by decide

/-- Lengths -1, 0, 1, 15, 16 and 17, a footprint that ends at the top of the address space and one that wraps, one with
an invalid byte, and with OVERREAD one that lies in a page and one that does not. -/
theorem witness_VldpLoadsFirstLanes :
    (xreg (held 0x1000 (-1)) 1 = some 0x1000 ∧ xreg (held 0x1000 (-1)) 2 = some (-1) ∧
      Accessible (held 0x1000 (-1)) 0x1000 (partialFootprint (held 0x1000 (-1)) 0x1000 (clampCount (-1))) .read) ∧
    Accessible (heldHoled 0x3000 0) 0x3000 (partialFootprint (heldHoled 0x3000 0) 0x3000 (clampCount 0)) .read ∧
    Accessible (held (-1) 1) (2 ^ 64 - 1) (partialFootprint (held (-1) 1) (2 ^ 64 - 1) (clampCount 1)) .read ∧
    Accessible (held (-15) 15) (2 ^ 64 - 15) (partialFootprint (held (-15) 15) (2 ^ 64 - 15) (clampCount 15)) .read ∧
    Accessible (held (-16) 16) (2 ^ 64 - 16) (partialFootprint (held (-16) 16) (2 ^ 64 - 16) (clampCount 16)) .read ∧
    2 ^ 64 < (-15 : Scalar).toNat + partialFootprint (held (-15) 17) (2 ^ 64 - 15) (clampCount 17) ∧
    LowestInvalid (heldHoled 0x2FFC 5) 0x2FFC (partialFootprint (heldHoled 0x2FFC 5) 0x2FFC (clampCount 5)) 4 .read ∧
    (partialFootprint (heldOverread 0x2FE0 4) 0x2FE0 (clampCount 4) = 16 ∧
      Accessible (heldOverread 0x2FE0 4) 0x2FE0 16 .read) ∧
    (partialFootprint (heldOverread 0x2FFC 4) 0x2FFC (clampCount 4) = 4 ∧
      Accessible (heldOverread 0x2FFC 4) 0x2FFC 4 .read) ∧
    xreg (held 0 0) 0 = none := by decide

theorem witness_VstpStoresFirstLanes :
    (vreg (held 0x1000 0) 1 = some 0x0F0E0D0C0B0A09080706050403020100 ∧ xreg (held 0x1000 0) 1 = some 0x1000 ∧
      xreg (held 0x1000 0) 2 = some 0 ∧ Memory.wf (held 0x1000 0).mem = true ∧
      Accessible (held 0x1000 0) 0x1000 (clampCount 0) .write) ∧
    Accessible (held (-1) 1) (2 ^ 64 - 1) (clampCount 1) .write ∧
    Accessible (held (-16) 16) (2 ^ 64 - 16) (clampCount 16) .write ∧
    2 ^ 64 < (-1 : Scalar).toNat + clampCount 2 ∧
    LowestInvalid (heldHoled 0x2FFE 3) 0x2FFE (clampCount 3) 2 .write ∧
    vreg (held 0 0) 0 = none ∧ xreg (held 0 0) 0 = none := by decide

theorem witness_VcutZeroesHighLanes :
    vreg (held 0 0) 1 = some 0x0F0E0D0C0B0A09080706050403020100 ∧ xreg (held 16 0) 1 = some 16 ∧
    vreg (held 0 0) 0 = none ∧ xreg (held 0 0) 0 = none := by decide

theorem witness_VinsReplacesOneLane :
    vreg (held (-1) 7) 1 = some 0x0F0E0D0C0B0A09080706050403020100 ∧ xreg (held (-1) 7) 1 = some (-1) ∧
    xreg (held (-1) 7) 2 = some 7 ∧ ((15 : Nat) : Int) = (-1 : Scalar).toInt % 16 ∧
    vreg (held 0 0) 0 = none ∧ xreg (held 0 0) 0 = none := by decide

theorem witness_VextReadsOneLane :
    vreg (held 16 0) 1 = some 0x0F0E0D0C0B0A09080706050403020100 ∧ xreg (held 16 0) 1 = some 16 ∧
    vreg (held 0 0) 0 = none ∧ xreg (held 0 0) 0 = none := by decide

theorem witness_WrappingLaneArithmetic :
    vreg (held 0 0) 1 = some 0x0F0E0D0C0B0A09080706050403020100 ∧
    vreg (held 0 0) 2 = some 0x100F0E0D0C0B0A090807060504030201 ∧ vreg (held 0 0) 0 = none := witness_vector_operands

theorem witness_VnegNegatesLanes :
    vreg (held 0 0) 1 = some 0x0F0E0D0C0B0A09080706050403020100 ∧ vreg (held 0 0) 0 = none := by decide

theorem witness_VeqComparesWholeVectors :
    vreg (held 0 0) 1 = some 0x0F0E0D0C0B0A09080706050403020100 ∧
    vreg (held 0 0) 2 = some 0x100F0E0D0C0B0A090807060504030201 ∧
    (∀ i < 16, byteLane 0x7F i = byteLane 0x7F i) ∧
    byteLane 0x0F0E0D0C0B0A09080706050403020100 15 ≠ byteLane 0x100F0E0D0C0B0A090807060504030201 15 ∧
    vreg (held 0 0) 0 = none := by decide

/-- Counts 0, 7, -1 and 8. -/
theorem witness_VshlShiftsLanesLeft :
    vreg (held 0 0) 1 = some 0x0F0E0D0C0B0A09080706050403020100 ∧
    (xreg (held 0 0) 1 = some 0 ∧ 0 ≤ (0 : Scalar).toInt ∧ (0 : Scalar).toInt ≤ 7) ∧
    (xreg (held 7 0) 1 = some 7 ∧ 0 ≤ (7 : Scalar).toInt ∧ (7 : Scalar).toInt ≤ 7) ∧
    (xreg (held (-1) 0) 1 = some (-1) ∧ (-1 : Scalar).toInt < 0) ∧
    (xreg (held 8 0) 1 = some 8 ∧ 7 < (8 : Scalar).toInt) ∧
    vreg (held 0 0) 0 = none ∧ xreg (held 0 0) 0 = none := by decide

theorem witness_VsarShiftsLanesRight :
    vreg (held 0 0) 1 = some 0x0F0E0D0C0B0A09080706050403020100 ∧
    (xreg (held 0 0) 1 = some 0 ∧ 0 ≤ (0 : Scalar).toInt ∧ (0 : Scalar).toInt ≤ 7) ∧
    (xreg (held 7 0) 1 = some 7 ∧ 0 ≤ (7 : Scalar).toInt ∧ (7 : Scalar).toInt ≤ 7) ∧
    (xreg (held (-1) 0) 1 = some (-1) ∧ (-1 : Scalar).toInt < 0) ∧
    (xreg (held 8 0) 1 = some 8 ∧ 7 < (8 : Scalar).toInt) ∧
    vreg (held 0 0) 0 = none ∧ xreg (held 0 0) 0 = none := witness_VshlShiftsLanesLeft

/-- A mask, a vector that is none, and an unwritten register in each operand. -/
theorem witness_VselSelectsLanes :
    vreg (held 0 0) 1 = some 0x0F0E0D0C0B0A09080706050403020100 ∧
    vreg (held 0 0) 2 = some 0x100F0E0D0C0B0A090807060504030201 ∧
    (vreg (held 0 0) 3 = some 0x0000000000000000FFFFFFFFFFFFFFFF ∧
      BooleanVector 0x0000000000000000FFFFFFFFFFFFFFFF) ∧
    (vreg (held 0 0) 4 = some 0x7F ∧ ¬ BooleanVector 0x7F) ∧ vreg (held 0 0) 0 = none := by decide

theorem witness_ConditionalAddAndSubtract :
    vreg (held 0 0) 1 = some 0x0F0E0D0C0B0A09080706050403020100 ∧
    vreg (held 0 0) 2 = some 0x100F0E0D0C0B0A090807060504030201 ∧
    (vreg (held 0 0) 3 = some 0x0000000000000000FFFFFFFFFFFFFFFF ∧
      BooleanVector 0x0000000000000000FFFFFFFFFFFFFFFF) ∧
    (vreg (held 0 0) 4 = some 0x7F ∧ ¬ BooleanVector 0x7F) ∧ vreg (held 0 0) 0 = none := witness_VselSelectsLanes

theorem witness_ConditionalMultiply :
    vreg (held 0 0) 1 = some 0x0F0E0D0C0B0A09080706050403020100 ∧
    vreg (held 0 0) 2 = some 0x100F0E0D0C0B0A090807060504030201 ∧
    (vreg (held 0 0) 3 = some 0x0000000000000000FFFFFFFFFFFFFFFF ∧
      BooleanVector 0x0000000000000000FFFFFFFFFFFFFFFF) ∧
    (vreg (held 0 0) 4 = some 0x7F ∧ ¬ BooleanVector 0x7F) ∧ vreg (held 0 0) 0 = none := witness_VselSelectsLanes

theorem witness_ComparatorsBuildMasks :
    vreg (held 0 0) 1 = some 0x0F0E0D0C0B0A09080706050403020100 ∧
    vreg (held 0 0) 2 = some 0x100F0E0D0C0B0A090807060504030201 ∧ vreg (held 0 0) 0 = none := witness_vector_operands

theorem witness_VhaddWritesWrappedSum :
    vreg (held 0 0) 1 = some 0x0F0E0D0C0B0A09080706050403020100 ∧ vreg (held 0 0) 0 = none := by decide

theorem witness_VhaddxWritesExactSum :
    vreg (held 0 0) 1 = some 0x0F0E0D0C0B0A09080706050403020100 ∧ vreg (held 0 0) 0 = none := by decide

theorem witness_SaturatingLaneArithmetic :
    vreg (held 0 0) 1 = some 0x0F0E0D0C0B0A09080706050403020100 ∧
    vreg (held 0 0) 2 = some 0x100F0E0D0C0B0A090807060504030201 ∧ vreg (held 0 0) 0 = none := witness_vector_operands

theorem witness_LaneMinimumAndMaximum :
    vreg (held 0 0) 1 = some 0x0F0E0D0C0B0A09080706050403020100 ∧
    vreg (held 0 0) 2 = some 0x100F0E0D0C0B0A090807060504030201 ∧ vreg (held 0 0) 0 = none := witness_vector_operands

theorem witness_LaneAbsoluteValues :
    vreg (held 0 0) 1 = some 0x0F0E0D0C0B0A09080706050403020100 ∧ vreg (held 0 0) 0 = none := by decide

theorem witness_VrotlRotatesLanes :
    vreg (held 0 0) 1 = some 0x0F0E0D0C0B0A09080706050403020100 ∧ xreg (held (-1) 0) 1 = some (-1) ∧
    vreg (held 0 0) 0 = none ∧ xreg (held 0 0) 0 = none := by decide

theorem witness_XliWritesLiteral :
    (([] : List Word).length < 2 ∧ (start [0x18400000] [] [] []).status.getLsbD 0 = false ∧
      (start [0x18400000] [] [] []).stream.drop (start [0x18400000] [] [] []).cix = firstWordR 0x06 1 0 0 0 :: []) ∧
    (([7] : List Word).length < 2 ∧ (start [0x18400000, 7] [] [] []).status.getLsbD 0 = false ∧
      (start [0x18400000, 7] [] [] []).stream.drop (start [0x18400000, 7] [] [] []).cix =
        firstWordR 0x06 1 0 0 0 :: [7]) := by decide

theorem witness_DecodedWordsAreTheEncoding : decode [0x60C48000, 5] = .ok (.vadd 3 1 2) := by decide

theorem witness_DecoderFollowsTheOpcodeMap :
    (∃ r ∈ opcodeMap, (0x60C48000 : Word) &&& r.mask = r.pattern ∧ r.words ≤ 0 + 1) ∧
    decode [0x60C48000] = .ok (.vadd 3 1 2) := by decide

theorem witness_StepRunsTheDecodedCommand :
    running.status.getLsbD 0 = false ∧ running.cix < running.stream.length ∧
    decode (running.stream.drop running.cix) = .ok (.vzero 3) := by decide

/-- OP 0x07, OP 0x32, a reserved bit, and a VLIT with three of its four literal words. -/
theorem witness_UndecodableCommandIsIllegal :
    (∀ ws ∈ [[0x1C000000], [0xC8000000], [0x60C48001], [0x10400000, 1, 2, 3]],
      (start ws [] [] []).status.getLsbD 0 = false ∧ (start ws [] [] []).cix < (start ws [] [] []).stream.length) ∧
    (0x1C000000 : Word).toNat / 2 ^ 26 ∈ [0x00, 0x07, 0x0E, 0x0F, 0x17, 0x23] ∧
    0x32 ≤ (0xC8000000 : Word).toNat / 2 ^ 26 ∧
    (∀ r ∈ opcodeMap, (0x60C48001 : Word) &&& r.mask ≠ r.pattern) ∧
    (∃ r ∈ opcodeMap, (0x10400000 : Word) &&& r.mask = r.pattern ∧ 4 < 0 + r.words) := by decide

theorem witness_FaultsArePrecise : stopped.status.getLsbD 0 = true ∧ step stopped = .next stopped :=
  ⟨by decide, rfl⟩

theorem witness_FaultIsStickyUntilReset :
    stopped.status.getLsbD 0 = true ∧ step stopped = .next stopped ∧ Transaction.start [1] ≠ .reset ∧
    hostStep (.start [1]) stopped = .next (stopped, .done) := ⟨by decide, rfl, by decide, rfl⟩

/-- A state that is running, one that has stopped with a fault, and one that is idle; each has a next state. -/
theorem witness_StepKeepsInvariant :
    (BlockInvariant running ∧ ∃ t, step running = .next t) ∧ (BlockInvariant stopped ∧ ∃ t, step stopped = .next t) ∧
    (BlockInvariant State.reset ∧ ∃ t, step State.reset = .next t) :=
  ⟨⟨by decide, _, rfl⟩, ⟨by decide, _, rfl⟩, ⟨by decide, _, rfl⟩⟩

theorem witness_HostTransactionsKeepInvariant :
    BlockInvariant State.reset ∧ ∃ t r, hostStep (.start [0x04C00000]) State.reset = .next (t, r) :=
  ⟨by decide, _, _, rfl⟩

theorem witness_StepAlwaysAnswersNext : BlockInvariant running := by decide

theorem witness_RunsTerminate :
    running.status.getLsbD 0 = false ∧ running.cix < running.stream.length ∧ running.cix = 0 := by decide

theorem witness_OnlyMemoryCommandsReachMemory :
    writesMemory (.vzero 3) = false ∧ reachesMemory (.vzero 3) = false ∧ ∃ t, exec (.vzero 3) running = .next t :=
  ⟨rfl, rfl, _, rfl⟩

/-- n = 16 from the top of the address space, and n = 0. -/
theorem witness_PartialLoadThenStoreCopies :
    (Memory.wf (held (-16) 16).mem = true ∧ xreg (held (-16) 16) 1 = some (-16) ∧ xreg (held (-16) 16) 2 = some 16 ∧
      0 ≤ (16 : Scalar).toInt ∧ (16 : Scalar).toInt ≤ 16 ∧
      Accessible (held (-16) 16) (2 ^ 64 - 16) (partialFootprint (held (-16) 16) (2 ^ 64 - 16) 16) .read ∧
      Accessible (held (-16) 16) (2 ^ 64 - 16) 16 .write) ∧
    (0 ≤ (0 : Scalar).toInt ∧ Accessible (held (-16) 0) 5 (partialFootprint (held (-16) 0) 5 0) .read) := by
  decide

theorem witness_OverreadDoesNotChangeTheValue :
    ∃ t u, exec (.vldp 0 1 2) (heldHoled 0x2FE0 4) = .next t ∧
      exec (.vldp 0 1 2) { heldHoled 0x2FE0 4 with platform := { (heldHoled 0x2FE0 4).platform with overread := true } }
        = .next u ∧
      t.cix = (heldHoled 0x2FE0 4).cix + 1 ∧ u.cix = (heldHoled 0x2FE0 4).cix + 1 := ⟨_, _, rfl, rfl, rfl, rfl⟩

theorem witness_AlignedAccessEqualsUnaligned :
    xreg (held 0x1010 0) 1 = some 0x1010 ∧ (0x1010 : Scalar).toNat % 16 = 0 := by decide

theorem witness_ComparatorMasksAreAccepted :
    vreg (held 0 0) 1 = some 0x0F0E0D0C0B0A09080706050403020100 ∧
    vreg (held 0 0) 2 = some 0x100F0E0D0C0B0A090807060504030201 ∧ (1 : VReg) ≠ 0 ∧ (2 : VReg) ≠ 0 := by decide

theorem witness_MinimumPlusMaximumIsSum :
    (5 : VReg) ≠ 1 ∧ (5 : VReg) ≠ 2 ∧ (6 : VReg) ≠ 5 ∧
    vreg (held 0 0) 1 = some 0x0F0E0D0C0B0A09080706050403020100 ∧
    vreg (held 0 0) 2 = some 0x100F0E0D0C0B0A090807060504030201 := by decide

/-- k = 0 and k = 8, the ends of the range. -/
theorem witness_RotateThereAndBack :
    (vreg (held 0 8) 1 = some 0x0F0E0D0C0B0A09080706050403020100 ∧ xreg (held 0 8) 1 = some 0 ∧
      xreg (held 0 8) 2 = some 8 ∧ 0 ≤ (0 : Scalar).toInt ∧ (0 : Scalar).toInt ≤ 8 ∧
      (8 : Scalar).toInt = 8 - (0 : Scalar).toInt) ∧
    ((8 : Scalar).toInt ≤ 8 ∧ (0 : Scalar).toInt = 8 - (8 : Scalar).toInt) := by decide

theorem witness_StartBeginsARun :
    (State.reset.status.getLsbD 0 = false ∧ State.reset.stream.length ≤ State.reset.cix) ∧
    (stopped.status.getLsbD 0 = true ∧ hostStep (.start [1]) stopped = .next (stopped, .done) ∧
      step stopped = .next stopped) := ⟨by decide, by decide, rfl, rfl⟩

theorem witness_PreloadAndReadback :
    stopped.status.getLsbD 0 = true ∧ State.reset.stream.length ≤ State.reset.cix ∧
    Memory.wf (held 0 0).mem = true := by decide

/-- A stopped block, an idle one, and a running one that has the invariant; the first register number above the four,
read in the middle of a run; STATUS after a fault; and a running state that no run reaches, whose FAULT_CIX stays
unseen. -/
theorem witness_StatusReadPort :
    (stopped.status.getLsbD 0 = true ∧ State.reset.stream.length ≤ State.reset.cix ∧ BlockInvariant running) ∧
    (running.status.getLsbD 0 = false ∧ running.cix < running.stream.length) ∧ 3 < 4 ∧
    hostStep (.readStatus 4) running = .next (running, .status 0) ∧
    hostStep (.readStatus 0) stopped = .next (stopped, .status 0x11) ∧
    hostStep (.readStatus 1) { running with faultCix := 5 } = .next ({ running with faultCix := 5 }, .status 0) :=
  ⟨by decide, by decide, by decide, rfl, rfl, rfl⟩

theorem witness_CompletedRunDoesNothing :
    State.reset.status.getLsbD 0 = false ∧ State.reset.cix = State.reset.stream.length := by decide

/-- Two running blocks that differ in their streams, their registers and their memory. -/
theorem witness_RunningBlockShowsTheHostNothing :
    (running.status.getLsbD 0 = false ∧ running.cix < running.stream.length ∧ BlockInvariant running) ∧
    ∃ s', s' ≠ running ∧ s'.status.getLsbD 0 = false ∧ s'.cix < s'.stream.length ∧ BlockInvariant s' ∧
      hostStep (.readStatus 0) running = .next (running, .status 0) ∧
      hostStep (.readStatus 0) s' = .next (s', .status 0) :=
  ⟨by decide, start [0, 0] [] [(1, 5)] [(9, 2)], by decide, by decide, by decide, by decide, rfl, rfl⟩

end Sys2Proof.Tests
end

/-! # The machine's invariant (10_state.md)

What the format readers answer, the words a decoded command takes up, what keeps `BlockInvariant`, and the four
statements about it. -/

/-! ## The format readers (30_encoding.md R91 to R95) -/

namespace Sys2Proof

variable {w : Word} {i : Instr}

@[simp] theorem formatD_eq_ok_iff {f : Fin 16 → Instr} :
    formatD w f = .ok i ↔ lowBitsZero w 22 = true ∧ f (fieldD w) = i := by
  unfold formatD; split <;> simp [*]

@[simp] theorem formatDA_eq_ok_iff {f : Fin 16 → Fin 16 → Instr} :
    formatDA w f = .ok i ↔ lowBitsZero w 18 = true ∧ f (fieldD w) (fieldA w) = i := by
  unfold formatDA; split <;> simp [*]

@[simp] theorem formatDAB_eq_ok_iff {f : Fin 16 → Fin 16 → Fin 16 → Instr} :
    formatDAB w f = .ok i ↔ lowBitsZero w 14 = true ∧ f (fieldD w) (fieldA w) (fieldB w) = i := by
  unfold formatDAB; split <;> simp [*]

@[simp] theorem formatDABC_eq_ok_iff {f : Fin 16 → Fin 16 → Fin 16 → Fin 16 → Instr} :
    formatDABC w f = .ok i ↔
      lowBitsZero w 10 = true ∧ f (fieldD w) (fieldA w) (fieldB w) (fieldC w) = i := by
  unfold formatDABC; split <;> simp [*]

@[simp] theorem formatAB_eq_ok_iff {f : Fin 16 → Fin 16 → Instr} :
    formatAB w f = .ok i ↔ (lowBitsZero w 14 = true ∧ fieldD w = 0) ∧ f (fieldA w) (fieldB w) = i := by
  unfold formatAB; split <;> simp_all

@[simp] theorem formatABC_eq_ok_iff {f : Fin 16 → Fin 16 → Fin 16 → Instr} :
    formatABC w f = .ok i ↔
      (lowBitsZero w 10 = true ∧ fieldD w = 0) ∧ f (fieldA w) (fieldB w) (fieldC w) = i := by
  unfold formatABC; split <;> simp_all

@[simp] theorem formatI_eq_ok_iff {f : Fin 16 → BitVec 16 → Instr} :
    formatI w f = .ok i ↔ w.toNat / 2 ^ 16 % 2 ^ 6 = 0 ∧ f (fieldD w) (fieldImm16 w) = i := by
  unfold formatI; split <;> simp_all

/-- VLIT is decoded only where its four literal words follow (R99). -/
@[simp] theorem formatVlit_eq_ok_iff {rest : List Word} :
    formatVlit w rest = .ok i ↔ lowBitsZero w 22 = true ∧ ∃ w1 w2 w3 w4 tail,
      rest = w1 :: w2 :: w3 :: w4 :: tail ∧ .vlit (fieldD w) (w4 ++ w3 ++ w2 ++ w1) = i := by
  unfold formatVlit
  split
  · split <;> simp_all
  · simp_all

/-- XLI is decoded only where its two literal words follow (R99). -/
@[simp] theorem formatXli_eq_ok_iff {rest : List Word} :
    formatXli w rest = .ok i ↔ lowBitsZero w 22 = true ∧ ∃ w1 w2 tail,
      rest = w1 :: w2 :: tail ∧ .xli (fieldD w) (w2 ++ w1) = i := by
  unfold formatXli
  split
  · split <;> simp_all
  · simp_all

/-! ## A decoded command lies within the words it is decoded from (30_encoding.md R99) -/

/-- OP 0x04 alone is decoded to VLIT. -/
theorem formatVlit_of_decodeOp {op : Nat} {rest : List Word} {d : VReg} {imm : BitVec 128}
    (h : decodeOp op w rest = .ok (.vlit d imm)) : formatVlit w rest = .ok (.vlit d imm) := by
  unfold decodeOp at h
  split at h
  case h_4 => exact h
  all_goals simp at h

/-- OP 0x06 alone is decoded to XLI. -/
theorem formatXli_of_decodeOp {op : Nat} {rest : List Word} {d : XReg} {imm : BitVec 64}
    (h : decodeOp op w rest = .ok (.xli d imm)) : formatXli w rest = .ok (.xli d imm) := by
  unfold decodeOp at h
  split at h
  case h_6 => exact h
  all_goals simp at h

/-- Only VLIT and XLI have literal words, so only there does the length need the decoder. -/
theorem length_encode_le_of_decode {ws : List Word} (h : decode ws = .ok i) : (encode i).length ≤ ws.length := by
  cases ws with
  | nil => cases h
  | cons w rest =>
    rw [decode] at h
    cases i with
    | vlit d imm =>
      obtain ⟨-, w1, w2, w3, w4, tail, rfl, -⟩ := formatVlit_eq_ok_iff.mp (formatVlit_of_decodeOp h)
      simp [encode]
    | xli d imm =>
      obtain ⟨-, w1, w2, tail, rfl, -⟩ := formatXli_eq_ok_iff.mp (formatXli_of_decodeOp h)
      simp [encode]
    | _ => exact Nat.succ_le_succ (Nat.zero_le rest.length)

end Sys2Proof

namespace Sys2Proof.Machine

variable {s t : State}

/-- The command decoded at `cix` ends within the stream, so completing it keeps `cix` in [0, L] (10_state.md R34). -/
theorem cix_add_length_le {i : Instr} (hc : s.cix ≤ s.stream.length) (h : decode (fetchWords s) = .ok i) :
    s.cix + (encode i).length ≤ s.stream.length := by
  have hle := length_encode_le_of_decode h
  rw [fetchWords, List.length_drop] at hle
  omega

/-! ## Fault entry makes a legal record (60_exceptions.md R281, R290) -/

theorem mem_allCauses (c : Cause) : c ∈ allCauses := by cases c <;> decide

/-- STATUS after fault entry has FAULT = 1, the code in CAUSE, and its reserved bits 0. -/
theorem enterFault_status_eq (s : State) (c : Cause) (a : Scalar) :
    (enterFault s c a).status = BitVec.ofNat 32 (16 * causeCode c + 1) := by cases c <;> rfl

/-- The address recorded is the one that the cause asks for: 0 but for the two memory causes, and no multiple of 16 for
a misaligned access. -/
def AddressFits (c : Cause) (a : Scalar) : Prop :=
  (c ≠ .misalignedAccess → c ≠ .memoryFault → a = 0) ∧ (c = .misalignedAccess → a.toNat % 16 ≠ 0)

theorem recordOf_enterFault {c : Cause} {a : Scalar} (hc : s.cix < s.stream.length) (h : AddressFits c a) :
    RecordOf (enterFault s c a) c :=
  ⟨enterFault_status_eq s c a, rfl, rfl, hc, h⟩

theorem addressFits_illegalCommand : AddressFits .illegalCommand 0 := ⟨fun _ _ => rfl, nofun⟩

/-- Every fault that a command raises records the address its cause asks for. -/
theorem addressFits_of_effect {r : Raised} (h : Effect s (.error r)) : AddressFits r.cause r.addr := by
  cases h with
  | unwritten => exact ⟨fun _ _ => rfl, nofun⟩
  | shiftCount => exact ⟨fun _ _ => rfl, nofun⟩
  | mask => exact ⟨fun _ _ => rfl, nofun⟩
  | misaligned a ha => exact ⟨fun hne => absurd rfl hne, fun _ => ha⟩
  | memory a => exact ⟨fun _ hne => absurd rfl hne, nofun⟩

/-! ## What keeps the invariant -/

/-- Fault entry at a command of the stream keeps the invariant, whatever the status registers held. -/
theorem blockInvariant_enterFault {c : Cause} {a : Scalar} (hw : Memory.wf s.mem = true)
    (hc : s.cix < s.stream.length) (h : AddressFits c a) : BlockInvariant (enterFault s c a) :=
  ⟨hw, hc.le, .inr ⟨c, mem_allCauses c, recordOf_enterFault hc h⟩⟩

/-- A command that completes keeps the invariant: a store keeps the canonical form of memory, and no command writes a
status register. -/
theorem blockInvariant_advance {u : State} {k : Nat} (hw : Memory.wf s.mem = true) (hn : NoRecord s)
    (hk : s.cix + k ≤ s.stream.length) (h : Effect s (.ok u)) : BlockInvariant (advance u k) := by
  cases h with
  | vector d val => exact ⟨hw, hk, .inl hn⟩
  | scalar d val => exact ⟨hw, hk, .inl hn⟩
  | store a val n hn' => exact ⟨wf_store hw hn', hk, .inl hn⟩

/-- Executing a command that lies within the stream of a running block keeps the invariant. -/
theorem blockInvariant_exec {i : Instr} (hi : BlockInvariant s) (hp : phase s = .running)
    (hl : s.cix + (encode i).length ≤ s.stream.length) (h : exec i s = .next t) : BlockInvariant t := by
  obtain ⟨hf, hc⟩ := phase_running_iff.mp hp
  have hn : NoRecord s := noRecord_of_noFault hi hf
  obtain ⟨hw, -, -⟩ := hi
  obtain ⟨e, he, heff⟩ := exec_effect i s
  rw [he] at h
  obtain ⟨u, rfl, rfl⟩ | ⟨r, rfl, rfl⟩ := complete_cases h
  · exact blockInvariant_advance hw hn hl heff
  · exact blockInvariant_enterFault hw hc (addressFits_of_effect heff)

theorem blockInvariant_setV (hi : BlockInvariant s) (r : VReg) (val : Vec) : BlockInvariant (setV s r val) := hi

theorem blockInvariant_setX (hi : BlockInvariant s) (r : XReg) (val : Scalar) : BlockInvariant (setX s r val) := hi

theorem blockInvariant_pokeMemory (hi : BlockInvariant s) (a : Scalar) (b : Lane) :
    BlockInvariant (pokeMemory s a b) := by
  obtain ⟨hw, hc, hr⟩ := hi
  exact ⟨Memory.wf_write hw a.isLt b, hc, hr⟩

/-- RESET keeps memory and clears the rest (70_reset_and_hazards.md R311). -/
theorem blockInvariant_resetBlock (hw : Memory.wf s.mem = true) : BlockInvariant (resetBlock s) :=
  ⟨hw, Nat.zero_le _, .inl ⟨rfl, rfl, rfl, rfl⟩⟩

/-- START with a fault recorded changes nothing; otherwise no record is held for the new stream to contradict
(70_reset_and_hazards.md R317). -/
theorem blockInvariant_startRun (hi : BlockInvariant s) (c : List Word) : BlockInvariant (startRun s c) := by
  cases hf : faultOut s with
  | true => rwa [startRun_faulted hf]
  | false =>
    have hn : NoRecord s := noRecord_of_noFault hi hf
    obtain ⟨hw, -, -⟩ := hi
    rw [startRun_ready hf]
    exact ⟨hw, Nat.zero_le _, .inl hn⟩

theorem blockInvariant_whenNotRunning {u : State} {r r' : Reply} (hu : BlockInvariant u)
    (h : whenNotRunning s u r = .next (t, r')) : BlockInvariant t := by
  obtain ⟨-, rfl, -⟩ := whenNotRunning_next h
  exact hu

/-! ## The read port of the status registers (10_state.md R41) -/

theorem readStatus_of_gt {k : Nat} (h : 3 < k) (s : State) : readStatus s k = 0 := by
  have h0 : k ≠ 0 := by omega
  have h1 : k ≠ 1 := by omega
  have h2 : k ≠ 2 := by omega
  have h3 : k ≠ 3 := by omega
  simp [readStatus, h0, h1, h2, h3]

theorem statusPort_of_gt {k : Nat} (h : 3 < k) (s : State) : statusPort s k = 0 := by
  obtain ⟨-, e⟩ | ⟨-, e⟩ := statusPort_cases s k
  · rw [e, readStatus_of_gt h]
  · exact e

theorem statusPort_of_not_running (h : phase s ≠ .running) (k : Nat) : statusPort s k = readStatus s k := if_neg h

theorem statusPort_of_running (h : phase s = .running) (k : Nat) : statusPort s k = 0 := if_pos h

theorem not_running_of_stopped (h : s.status.getLsbD 0 = true ∨ s.stream.length ≤ s.cix) : phase s ≠ .running := by
  intro hp
  obtain ⟨hf, hc⟩ := phase_running_iff.mp hp
  obtain h | h := h
  · rw [faultOut, h] at hf; cases hf
  · omega

theorem hostStep_readStatus (s : State) (k : Nat) :
    hostStep (.readStatus k) s = .next (s, .status (statusPort s k)) := rfl

/-! ## The obligations -/

/-- Settles O43: a running block executes the decoded command or enters IllegalCommand, and a block that is not running
stays as it is. -/
theorem stepKeepsInvariant : Obligations.StepKeepsInvariant := by
  intro s t hi h
  have ⟨hw, hc, _⟩ := hi
  obtain ⟨hp, i, hd, hx⟩ | ⟨hp, -, rfl⟩ | ⟨-, rfl⟩ := step_cases h
  · exact blockInvariant_exec hi hp (cix_add_length_le hc hd) hx
  · obtain ⟨-, hlt⟩ := phase_running_iff.mp hp
    exact blockInvariant_enterFault hw hlt addressFits_illegalCommand
  · exact hi

/-- Settles O44, transaction by transaction. -/
theorem hostTransactionsKeepInvariant : Obligations.HostTransactionsKeepInvariant := by
  intro tr s t r hi h
  cases tr with
  | reset =>
    cases h
    obtain ⟨hw, -, -⟩ := hi
    exact blockInvariant_resetBlock hw
  | writeVReg q val => exact blockInvariant_whenNotRunning (blockInvariant_setV hi q val) h
  | writeXReg q val => exact blockInvariant_whenNotRunning (blockInvariant_setX hi q val) h
  | readVReg q => exact blockInvariant_whenNotRunning hi h
  | readXReg q => exact blockInvariant_whenNotRunning hi h
  | readCix => exact blockInvariant_whenNotRunning hi h
  | readStatus k => cases h; exact hi
  | start c => exact blockInvariant_whenNotRunning (blockInvariant_startRun hi c) h
  | faultOut => cases h; exact hi
  | readMemory a => exact blockInvariant_whenNotRunning hi h
  | writeMemory a b => exact blockInvariant_whenNotRunning (blockInvariant_pokeMemory hi a b) h

/-- Settles O42: the state after power-on is what RESET leaves of itself, over an empty memory. -/
theorem resetHasInvariant : Obligations.ResetHasInvariant := by
  have h : BlockInvariant (resetBlock State.reset) := blockInvariant_resetBlock rfl
  rwa [resetBlock_reset] at h

/-- Settles O57: the port answers the register when the block is not running; in a run it answers 0, which is what the
invariant says the registers hold. -/
theorem statusReadPort : Obligations.StatusReadPort := by
  intro s
  refine ⟨fun h => ?_, fun k hk => ?_, fun hf hc k => ?_⟩
  · have hport : ∀ k, statusPort s k = readStatus s k := by
      obtain h | h | hi := h
      · exact statusPort_of_not_running (not_running_of_stopped (.inl h))
      · exact statusPort_of_not_running (not_running_of_stopped (.inr h))
      · exact statusPort_eq_readStatus hi
    simp only [hostStep_readStatus, hport]
    exact ⟨rfl, rfl, rfl, rfl⟩
  · rw [hostStep_readStatus, statusPort_of_gt hk]
  · rw [hostStep_readStatus, statusPort_of_running (phase_running_iff.mpr ⟨hf, hc⟩)]

end Sys2Proof.Machine

/-! # Which commands reach data memory (20_memory.md R61)

A computation that commutes with replacing data memory neither reads it nor writes it. The shared shapes of the 38 other
commands do so; loading and storing lanes do not, and a load is only said to leave memory alone. -/

namespace Sys2Proof.Machine

open Host (Outcome)
open Sys2Proof.Claims (reachesMemory writesMemory)

variable {i : Instr} {s t u : State}

/-- The computation answers the same whatever data memory holds, and hands on the memory it was given. -/
def CarriesMemory (f : State → Except Raised State) : Prop :=
  ∀ s m, f (setMem s m) = (f s).map (setMem · m)

/-! ## Computations that carry memory along -/

@[simp] theorem readV_setMem (s : State) (m : Memory) (r : VReg) : readV (setMem s m) r = readV s r := rfl

@[simp] theorem readX_setMem (s : State) (m : Memory) (r : XReg) : readX (setMem s m) r = readX s r := rfl

theorem carriesMemory_setV (d : VReg) (val : Vec) : CarriesMemory fun s => .ok (setV s d val) := fun _ _ => rfl

theorem carriesMemory_setX (d : XReg) (val : Scalar) : CarriesMemory fun s => .ok (setX s d val) := fun _ _ => rfl

/-- What comes before the write may look at the state, but not at its memory. -/
theorem carriesMemory_bind {α : Type} {c : State → Except Raised α} {f : α → State → Except Raised State}
    (hc : ∀ s m, c (setMem s m) = c s) (hf : ∀ p, CarriesMemory (f p)) :
    CarriesMemory fun s => c s >>= fun p => f p s := by
  intro s m
  change (c (setMem s m) >>= fun p => f p (setMem s m)) = (c s >>= fun p => f p s).map (setMem · m)
  rw [hc]
  cases c s with
  | ok p => exact hf p s m
  | error r => rfl

theorem carriesMemory_readV (r : VReg) {f : Vec → State → Except Raised State} (hf : ∀ p, CarriesMemory (f p)) :
    CarriesMemory fun s => readV s r >>= fun p => f p s :=
  carriesMemory_bind (fun s m => readV_setMem s m r) hf

theorem carriesMemory_readX (r : XReg) {f : Scalar → State → Except Raised State} (hf : ∀ n, CarriesMemory (f n)) :
    CarriesMemory fun s => readX s r >>= fun n => f n s :=
  carriesMemory_bind (fun s m => readX_setMem s m r) hf

/-- A check of a value that is already read does not look at the state. -/
theorem carriesMemory_check {α : Type} (c : Except Raised α) {f : α → State → Except Raised State}
    (hf : ∀ p, CarriesMemory (f p)) : CarriesMemory fun s => c >>= fun p => f p s :=
  carriesMemory_bind (fun _ _ => rfl) hf

/-! ## The shared shapes -/

theorem carriesMemory_vecUnary (f : Vec → Vec) (d a : VReg) : CarriesMemory (vecUnary f d a) :=
  carriesMemory_readV a fun p => carriesMemory_setV d (f p)

theorem carriesMemory_vecBinary (f : Vec → Vec → Vec) (d a b : VReg) : CarriesMemory (vecBinary f d a b) :=
  carriesMemory_readV a fun p => carriesMemory_readV b fun q => carriesMemory_setV d (f p q)

theorem carriesMemory_vecScalar (f : Vec → Scalar → Vec) (d a : VReg) (b : XReg) :
    CarriesMemory (vecScalar f d a b) :=
  carriesMemory_readV a fun p => carriesMemory_readX b fun n => carriesMemory_setV d (f p n)

theorem carriesMemory_vecShift (f : Nat → Vec → Vec) (d a : VReg) (b : XReg) : CarriesMemory (vecShift f d a b) :=
  carriesMemory_readV a fun p => carriesMemory_readX b fun n => carriesMemory_check (shiftCount n) fun c =>
    carriesMemory_setV d (f c p)

theorem carriesMemory_vecMasked (f : Vec → Vec → Vec → Vec) (d a b c : VReg) :
    CarriesMemory (vecMasked f d a b c) :=
  carriesMemory_readV a fun p => carriesMemory_readV b fun q => carriesMemory_readV c fun m =>
    carriesMemory_check (requireMask m) fun _ => carriesMemory_setV d (f p q m)

theorem carriesMemory_vecToScalar (f : Vec → Scalar) (d : XReg) (a : VReg) : CarriesMemory (vecToScalar f d a) :=
  carriesMemory_readV a fun p => carriesMemory_setX d (f p)

/-! ## The commands without a footprint -/

/-- Each command without a footprint completes a computation that carries memory along. -/
theorem exec_carriesMemory (h : reachesMemory i = false) :
    ∃ k f, CarriesMemory f ∧ ∀ s, exec i s = complete k s (f s) := by
  cases i with
  | vld d a | vlda d a | vldp d a b | vst a b | vsta a b | vstp a b c => cases h
  | vzero d => exact ⟨1, _, carriesMemory_setV d 0, fun _ => rfl⟩
  | vlit d imm => exact ⟨5, _, carriesMemory_setV d imm, fun _ => rfl⟩
  | vbools d imm => exact ⟨1, _, carriesMemory_setV d (boolVec imm), fun _ => rfl⟩
  | xli d imm => exact ⟨3, _, carriesMemory_setX d imm, fun _ => rfl⟩
  | vmov d a | vnot d a | vneg d a | vabs d a | vabss d a =>
    exact ⟨1, _, carriesMemory_vecUnary _ d a, fun _ => rfl⟩
  | vand d a b | vor d a b | vxor d a b | vandn d a b | vadd d a b | vsub d a b | vmul d a b | vadds d a b
  | vsubs d a b | vmin d a b | vmax d a b | vcmpeq d a b | vcmpgt d a b =>
    exact ⟨1, _, carriesMemory_vecBinary _ d a b, fun _ => rfl⟩
  | vcut d a b | vrotl d a b => exact ⟨1, _, carriesMemory_vecScalar _ d a b, fun _ => rfl⟩
  | vshl d a b | vsar d a b => exact ⟨1, _, carriesMemory_vecShift _ d a b, fun _ => rfl⟩
  | vsel d a b c | vifadd d a b c | vifsub d a b c | vifmul d a b c =>
    exact ⟨1, _, carriesMemory_vecMasked _ d a b c, fun _ => rfl⟩
  | vall d a | vany d a | vhadd d a | vhaddx d a =>
    exact ⟨1, _, carriesMemory_vecToScalar _ d a, fun _ => rfl⟩
  | vbcast d a =>
    exact ⟨1, _, carriesMemory_readX a fun n => carriesMemory_setV d (lanes fun _ => scalarByte n), fun _ => rfl⟩
  | veq d a b =>
    exact ⟨1, _, carriesMemory_readV a fun p => carriesMemory_readV b fun q =>
      carriesMemory_setX d (boolScalar (isEqual p q)), fun _ => rfl⟩
  | vins d a b c =>
    exact ⟨1, _, carriesMemory_readV a fun p => carriesMemory_readX b fun j => carriesMemory_readX c fun n =>
      carriesMemory_setV d (insertLane (laneIndex j) (scalarByte n) p), fun _ => rfl⟩
  | vext d a b =>
    exact ⟨1, _, carriesMemory_readV a fun p => carriesMemory_readX b fun j =>
      carriesMemory_setX d ((lane p (laneIndex j)).signExtend 64), fun _ => rfl⟩

/-- Completion and fault entry do not look at memory either (60_exceptions.md R290). -/
theorem complete_setMem {k : Nat} {e : Except Raised State} (m : Memory) (h : complete k s e = .next t) :
    complete k (setMem s m) (e.map (setMem · m)) = .next (setMem t m) := by
  obtain ⟨u, rfl, rfl⟩ | ⟨r, rfl, rfl⟩ := complete_cases h <;> rfl

/-- A command without a footprint does the same whatever memory holds. -/
theorem exec_setMem (hi : reachesMemory i = false) (m : Memory) (h : exec i s = .next t) :
    exec i (setMem s m) = .next (setMem t m) := by
  obtain ⟨k, f, hf, he⟩ := exec_carriesMemory hi
  rw [he] at h
  rw [he, hf]
  exact complete_setMem m h

/-- Given the memory that it has, such a command must hand on that memory. -/
theorem mem_exec_of_not_reaches (hi : reachesMemory i = false) (h : exec i s = .next t) : t.mem = s.mem := by
  have hsame : exec i s = .next (setMem t s.mem) := exec_setMem hi s.mem h
  rw [h, Outcome.next.injEq] at hsame
  exact (congrArg State.mem hsame).trans (setMem_mem t s.mem)

/-! ## The loads -/

/-- The commands that reach memory and do not write it are the three loads. -/
theorem load_of_reaches (hr : reachesMemory i = true) (hw : writesMemory i = false) :
    (∃ d a, i = .vld d a) ∨ (∃ d a, i = .vlda d a) ∨ (∃ d a b, i = .vldp d a b) := by
  unfold reachesMemory at hr
  split at hr
  case h_1 d a => exact .inl ⟨d, a, rfl⟩
  case h_2 d a => exact .inr (.inl ⟨d, a, rfl⟩)
  case h_3 d a b => exact .inr (.inr ⟨d, a, b, rfl⟩)
  case h_7 => cases hr
  all_goals cases hw

theorem mem_loadLanes {d : VReg} {a : Scalar} {len k : Nat} (h : loadLanes d a len k s = .ok u) :
    u.mem = s.mem := by
  obtain ⟨-, -, h⟩ := except_bind_ok.mp h
  cases h
  rfl

/-- Fault entry keeps memory, so a command keeps it when its computation does. -/
theorem mem_complete {k : Nat} {e : Except Raised State} (he : ∀ u, e = .ok u → u.mem = s.mem)
    (h : complete k s e = .next t) : t.mem = s.mem := by
  obtain ⟨u, hu, rfl⟩ | ⟨r, -, rfl⟩ := complete_cases h
  · exact he u hu
  · rfl

theorem mem_execVld {d : VReg} {a : XReg} (h : execVld d a s = .next t) : t.mem = s.mem := by
  refine mem_complete (fun u hu => ?_) h
  obtain ⟨addr, -, hload⟩ := except_bind_ok.mp hu
  exact mem_loadLanes hload

theorem mem_execVlda {d : VReg} {a : XReg} (h : execVlda d a s = .next t) : t.mem = s.mem := by
  refine mem_complete (fun u hu => ?_) h
  obtain ⟨addr, -, hu⟩ := except_bind_ok.mp hu
  obtain ⟨-, -, hload⟩ := except_bind_ok.mp hu
  exact mem_loadLanes hload

theorem mem_execVldp {d : VReg} {a b : XReg} (h : execVldp d a b s = .next t) : t.mem = s.mem := by
  refine mem_complete (fun u hu => ?_) h
  obtain ⟨addr, -, hu⟩ := except_bind_ok.mp hu
  obtain ⟨n, -, hload⟩ := except_bind_ok.mp hu
  exact mem_loadLanes hload

/-- A command other than the three stores leaves data memory as it was. -/
theorem mem_exec_of_not_writes (hw : writesMemory i = false) (h : exec i s = .next t) : t.mem = s.mem := by
  cases hr : reachesMemory i with
  | false => exact mem_exec_of_not_reaches hr h
  | true =>
    obtain ⟨d, a, rfl⟩ | ⟨d, a, rfl⟩ | ⟨d, a, b, rfl⟩ := load_of_reaches hr hw
    · exact mem_execVld h
    · exact mem_execVlda h
    · exact mem_execVldp h

/-! ## The obligation -/

/-- Settles O47: the commands without a footprint commute with replacing memory, and a load writes a register alone. -/
theorem onlyMemoryCommandsReachMemory : Obligations.OnlyMemoryCommandsReachMemory :=
  ⟨fun i s t hw h a => by rw [mem_exec_of_not_writes hw h], fun i s t m hr h => exec_setMem hr m h⟩

end Sys2Proof.Machine

/-! # The encoding (30_encoding.md)

Each format reader against the encoder in both directions, one inversion lemma for the decoder (`decodeOp_arm`), and
the four statements about decoding and encoding. -/

namespace Sys2Proof

/-! ## A format reader gives back what the encoder wrote (30_encoding.md R91 to R95) -/

section ReadBack

variable {op : Nat} (h : op < 64)

include h

theorem formatD_wordR (f : Fin 16 → Instr) (d : Fin 16) : formatD (wordR op d 0 0 0) f = .ok (f d) :=
  formatD_eq_ok_iff.mpr ⟨lowBitsZero_wordR_twentytwo h d, by rw [fieldD_wordR h]⟩

theorem formatDA_wordR (f : Fin 16 → Fin 16 → Instr) (d a : Fin 16) :
    formatDA (wordR op d a 0 0) f = .ok (f d a) :=
  formatDA_eq_ok_iff.mpr ⟨lowBitsZero_wordR_eighteen h d a, by rw [fieldD_wordR h, fieldA_wordR h]⟩

theorem formatDAB_wordR (f : Fin 16 → Fin 16 → Fin 16 → Instr) (d a b : Fin 16) :
    formatDAB (wordR op d a b 0) f = .ok (f d a b) :=
  formatDAB_eq_ok_iff.mpr
    ⟨lowBitsZero_wordR_fourteen h d a b, by rw [fieldD_wordR h, fieldA_wordR h, fieldB_wordR h]⟩

theorem formatDABC_wordR (f : Fin 16 → Fin 16 → Fin 16 → Fin 16 → Instr) (d a b c : Fin 16) :
    formatDABC (wordR op d a b c) f = .ok (f d a b c) :=
  formatDABC_eq_ok_iff.mpr ⟨lowBitsZero_wordR_ten h d a b c,
    by rw [fieldD_wordR h, fieldA_wordR h, fieldB_wordR h, fieldC_wordR h]⟩

theorem formatAB_wordR (f : Fin 16 → Fin 16 → Instr) (a b : Fin 16) :
    formatAB (wordR op 0 a b 0) f = .ok (f a b) :=
  formatAB_eq_ok_iff.mpr ⟨⟨lowBitsZero_wordR_fourteen h 0 a b, fieldD_wordR h 0 a b 0⟩,
    by rw [fieldA_wordR h, fieldB_wordR h]⟩

theorem formatABC_wordR (f : Fin 16 → Fin 16 → Fin 16 → Instr) (a b c : Fin 16) :
    formatABC (wordR op 0 a b c) f = .ok (f a b c) :=
  formatABC_eq_ok_iff.mpr ⟨⟨lowBitsZero_wordR_ten h 0 a b c, fieldD_wordR h 0 a b c⟩,
    by rw [fieldA_wordR h, fieldB_wordR h, fieldC_wordR h]⟩

theorem formatI_wordI (f : Fin 16 → BitVec 16 → Instr) (d : Fin 16) (imm : BitVec 16) :
    formatI (wordI op d imm) f = .ok (f d imm) :=
  formatI_eq_ok_iff.mpr ⟨reserved_wordI h d imm, by rw [fieldD_wordI h, fieldImm16_wordI h]⟩

theorem formatVlit_wordR (d : Fin 16) (imm : BitVec 128) (rest : List Word) :
    formatVlit (wordR op d 0 0 0) (literal imm 0 :: literal imm 1 :: literal imm 2 :: literal imm 3 :: rest) =
      .ok (.vlit d imm) :=
  formatVlit_eq_ok_iff.mpr ⟨lowBitsZero_wordR_twentytwo h d, _, _, _, _, rest, rfl,
    by rw [fieldD_wordR h, append_literal_four]⟩

theorem formatXli_wordR (d : Fin 16) (imm : BitVec 64) (rest : List Word) :
    formatXli (wordR op d 0 0 0) (literal imm 0 :: literal imm 1 :: rest) = .ok (.xli d imm) :=
  formatXli_eq_ok_iff.mpr ⟨lowBitsZero_wordR_twentytwo h d, _, _, rest, rfl,
    by rw [fieldD_wordR h, append_literal_two]⟩

/-- The decoder chooses the reader by the OP that the encoder wrote. -/
theorem decode_wordR_cons (d a b c : Fin 16) (rest : List Word) :
    decode (wordR op d a b c :: rest) = decodeOp op (wordR op d a b c) rest := by rw [decode, opField_wordR h]

theorem decode_wordI_cons (d : Fin 16) (imm : BitVec 16) (rest : List Word) :
    decode (wordI op d imm :: rest) = decodeOp op (wordI op d imm) rest := by rw [decode, opField_wordI h]

end ReadBack

/-- Settles O35: the OP written selects the command's own reader, which gives its operands back. -/
theorem decodeOfEncodeIsTheCommand : Obligations.DecodeOfEncodeIsTheCommand := by
  intro i rest
  cases i with
  | vzero d => simp [encode, decode_wordR_cons, decodeOp, formatD_wordR]
  | vlit d imm => simp [encode, decode_wordR_cons, decodeOp, formatVlit_wordR]
  | vbools d imm => simp [encode, decode_wordI_cons, decodeOp, formatI_wordI]
  | xli d imm => simp [encode, decode_wordR_cons, decodeOp, formatXli_wordR]
  | vst a b | vsta a b => simp [encode, decode_wordR_cons, decodeOp, formatAB_wordR]
  | vstp a b c => simp [encode, decode_wordR_cons, decodeOp, formatABC_wordR]
  | vins d a b c | vsel d a b c | vifadd d a b c | vifsub d a b c | vifmul d a b c =>
    simp [encode, decode_wordR_cons, decodeOp, formatDABC_wordR]
  | vmov d a | vbcast d a | vld d a | vlda d a | vnot d a | vall d a | vany d a | vneg d a | vhadd d a | vhaddx d a
  | vabs d a | vabss d a => simp [encode, decode_wordR_cons, decodeOp, formatDA_wordR]
  | vldp d a b | vand d a b | vor d a b | vxor d a b | vandn d a b | vadd d a b | vsub d a b | vmul d a b
  | vshl d a b | vsar d a b | vrotl d a b | veq d a b | vcut d a b | vext d a b | vadds d a b | vsubs d a b
  | vmin d a b | vmax d a b | vcmpeq d a b | vcmpgt d a b =>
    simp [encode, decode_wordR_cons, decodeOp, formatDAB_wordR]

/-! ## A first word whose unused fields are 0 is the word of the fields it has (30_encoding.md R97) -/

section UnusedFields

variable {w : Word}

theorem wordR_of_fieldsDAB (h : lowBitsZero w 14 = true) :
    wordR (opField w) (fieldD w) (fieldA w) (fieldB w) 0 = w := by
  simp only [lowBitsZero, beq_iff_eq] at h
  have hc : fieldC w = 0 := by simp only [fieldC, Fin.ext_iff, Fin.val_ofNat, Fin.val_zero]; omega
  have hlow : lowBitsZero w 10 = true := by simp only [lowBitsZero, beq_iff_eq]; omega
  rw [← hc, wordR_of_fields hlow]

theorem wordR_of_fieldsDA (h : lowBitsZero w 18 = true) :
    wordR (opField w) (fieldD w) (fieldA w) 0 0 = w := by
  simp only [lowBitsZero, beq_iff_eq] at h
  have hb : fieldB w = 0 := by simp only [fieldB, Fin.ext_iff, Fin.val_ofNat, Fin.val_zero]; omega
  have hlow : lowBitsZero w 14 = true := by simp only [lowBitsZero, beq_iff_eq]; omega
  conv_rhs => rw [← wordR_of_fieldsDAB hlow, hb]

theorem wordR_of_fieldD (h : lowBitsZero w 22 = true) : wordR (opField w) (fieldD w) 0 0 0 = w := by
  simp only [lowBitsZero, beq_iff_eq] at h
  have ha : fieldA w = 0 := by simp only [fieldA, Fin.ext_iff, Fin.val_ofNat, Fin.val_zero]; omega
  have hlow : lowBitsZero w 18 = true := by simp only [lowBitsZero, beq_iff_eq]; omega
  conv_rhs => rw [← wordR_of_fieldsDA hlow, ha]

end UnusedFields

/-! ## The decoder's arms (30_encoding.md R96) -/

/-- The opcode map has a row for `op` that asks for `words` words and, below the OP field, for the bits of `reserved`
to be 0. -/
abbrev HasRow (op : Nat) (reserved : Word) (words : Nat) : Prop :=
  ∃ r ∈ opcodeMap, opField r.pattern = op ∧ r.mask &&& 0x03FFFFFF#32 = reserved ∧ r.words = words

/-- The arms of the decoder for a first word `w` with OP `op` that `rest` follows: which reader answers, the reserved
bits and the length of the OP's row, and how the encoder writes the commands that the reader makes. -/
inductive DecodeArm (op : Nat) (w : Word) (rest : List Word) : Except DecodeError Instr → Prop where
  | readD {f : Fin 16 → Instr} (row : HasRow op 0x003FFFFF#32 1)
      (enc : ∀ d, encode (f d) = [wordR op d 0 0 0]) : DecodeArm op w rest (formatD w f)
  | readDA {f : Fin 16 → Fin 16 → Instr} (row : HasRow op 0x0003FFFF#32 1)
      (enc : ∀ d a, encode (f d a) = [wordR op d a 0 0]) : DecodeArm op w rest (formatDA w f)
  | readDAB {f : Fin 16 → Fin 16 → Fin 16 → Instr} (row : HasRow op 0x00003FFF#32 1)
      (enc : ∀ d a b, encode (f d a b) = [wordR op d a b 0]) : DecodeArm op w rest (formatDAB w f)
  | readDABC {f : Fin 16 → Fin 16 → Fin 16 → Fin 16 → Instr} (row : HasRow op 0x000003FF#32 1)
      (enc : ∀ d a b c, encode (f d a b c) = [wordR op d a b c]) : DecodeArm op w rest (formatDABC w f)
  | readAB {f : Fin 16 → Fin 16 → Instr} (row : HasRow op 0x03C03FFF#32 1)
      (enc : ∀ a b, encode (f a b) = [wordR op 0 a b 0]) : DecodeArm op w rest (formatAB w f)
  | readABC {f : Fin 16 → Fin 16 → Fin 16 → Instr} (row : HasRow op 0x03C003FF#32 1)
      (enc : ∀ a b c, encode (f a b c) = [wordR op 0 a b c]) : DecodeArm op w rest (formatABC w f)
  | readI {f : Fin 16 → BitVec 16 → Instr} (row : HasRow op 0x003F0000#32 1)
      (enc : ∀ d imm, encode (f d imm) = [wordI op d imm]) : DecodeArm op w rest (formatI w f)
  | readVlit (row : HasRow op 0x003FFFFF#32 5) (enc : ∀ d imm, encode (.vlit d imm) =
      [wordR op d 0 0 0, literal imm 0, literal imm 1, literal imm 2, literal imm 3]) :
      DecodeArm op w rest (formatVlit w rest)
  | readXli (row : HasRow op 0x003FFFFF#32 3) (enc : ∀ d imm, encode (.xli d imm) =
      [wordR op d 0 0 0, literal imm 0, literal imm 1]) : DecodeArm op w rest (formatXli w rest)
  | unassigned (noRow : ∀ r ∈ opcodeMap, op ≠ opField r.pattern) : DecodeArm op w rest (.error (.unassignedOp op))

/-- Every answer of the decoder comes from one of the arms. The cases are numbered as `decodeOp` lists its arms. -/
theorem decodeOp_arm (op : Nat) (w : Word) (rest : List Word) : DecodeArm op w rest (decodeOp op w rest) := by
  unfold decodeOp
  split
  case h_1 => exact .readD (by decide) fun _ => rfl
  case h_4 => exact .readVlit (by decide) fun _ _ => rfl
  case h_5 => exact .readI (by decide) fun _ _ => rfl
  case h_6 => exact .readXli (by decide) fun _ _ => rfl
  case h_8 | h_10 => exact .readAB (by decide) fun _ _ => rfl
  case h_12 => exact .readABC (by decide) fun _ _ _ => rfl
  case h_29 | h_31 | h_32 | h_33 | h_34 => exact .readDABC (by decide) fun _ _ _ _ => rfl
  case h_2 | h_3 | h_7 | h_9 | h_17 | h_18 | h_19 | h_22 | h_35 | h_36 | h_41 | h_42 =>
    exact .readDA (by decide) fun _ _ => rfl
  case h_45 => exact .unassigned (by
    simp_all [opcodeMap, opcodeRows1, opcodeRows2, opcodeRows3, opcodeRows4, opField])
  all_goals exact .readDAB (by decide) fun _ _ _ => rfl

/-! ## The words a command is decoded from begin with its encoding -/

section Arm

variable {w : Word} {rest : List Word} {e : Except DecodeError Instr}

/-- The first word is rebuilt from the fields that were read, and the literal words from the literal. -/
theorem DecodeArm.encode_append {i : Instr} (arm : DecodeArm (opField w) w rest e) (h : e = .ok i) :
    ∃ tail, encode i ++ tail = w :: rest := by
  cases arm with
  | readD _ enc =>
    obtain ⟨hlow, rfl⟩ := formatD_eq_ok_iff.mp h
    exact ⟨rest, by rw [enc, wordR_of_fieldD hlow]; rfl⟩
  | readDA _ enc =>
    obtain ⟨hlow, rfl⟩ := formatDA_eq_ok_iff.mp h
    exact ⟨rest, by rw [enc, wordR_of_fieldsDA hlow]; rfl⟩
  | readDAB _ enc =>
    obtain ⟨hlow, rfl⟩ := formatDAB_eq_ok_iff.mp h
    exact ⟨rest, by rw [enc, wordR_of_fieldsDAB hlow]; rfl⟩
  | readDABC _ enc =>
    obtain ⟨hlow, rfl⟩ := formatDABC_eq_ok_iff.mp h
    exact ⟨rest, by rw [enc, wordR_of_fields hlow]; rfl⟩
  | readAB _ enc =>
    obtain ⟨⟨hlow, hd⟩, rfl⟩ := formatAB_eq_ok_iff.mp h
    have hw := wordR_of_fieldsDAB hlow
    rw [hd] at hw
    exact ⟨rest, by rw [enc, hw]; rfl⟩
  | readABC _ enc =>
    obtain ⟨⟨hlow, hd⟩, rfl⟩ := formatABC_eq_ok_iff.mp h
    have hw := wordR_of_fields hlow
    rw [hd] at hw
    exact ⟨rest, by rw [enc, hw]; rfl⟩
  | readI _ enc =>
    obtain ⟨hres, rfl⟩ := formatI_eq_ok_iff.mp h
    exact ⟨rest, by rw [enc, wordI_of_fields hres]; rfl⟩
  | readVlit _ enc =>
    obtain ⟨hlow, w1, w2, w3, w4, tail, rfl, rfl⟩ := formatVlit_eq_ok_iff.mp h
    obtain ⟨h0, h1, h2, h3⟩ := literal_append_four w1 w2 w3 w4
    exact ⟨tail, by rw [enc, wordR_of_fieldD hlow, h0, h1, h2, h3]; rfl⟩
  | readXli _ enc =>
    obtain ⟨hlow, w1, w2, tail, rfl, rfl⟩ := formatXli_eq_ok_iff.mp h
    obtain ⟨h0, h1⟩ := literal_append_two w1 w2
    exact ⟨tail, by rw [enc, wordR_of_fieldD hlow, h0, h1]; rfl⟩
  | unassigned => cases h

end Arm

/-- Settles O36: the words are the encoding and some tail, and dropping the encoding's length leaves that tail. -/
theorem decodedWordsAreTheEncoding : Obligations.DecodedWordsAreTheEncoding := by
  intro ws i h
  cases ws with
  | nil => cases h
  | cons w rest =>
    obtain ⟨tail, htail⟩ := (decodeOp_arm (opField w) w rest).encode_append h
    rw [← htail, List.drop_left]

/-! ## The decoder against the opcode map (30_encoding.md R96 to R100) -/

/-- Every row fixes the whole OP field and no other bit to anything but 0. -/
theorem opcodeMap_shape : ∀ r ∈ opcodeMap, r.pattern = BitVec.ofNat 32 (opField r.pattern * 2 ^ 26) ∧
    r.mask = 0xFC000000#32 ||| (r.mask &&& 0x03FFFFFF#32) := by decide

theorem row_matches_iff {r : OpcodeRow} (hr : r ∈ opcodeMap) (w : Word) :
    w &&& r.mask = r.pattern ↔ opField w = opField r.pattern ∧ w &&& (r.mask &&& 0x03FFFFFF#32) = 0#32 := by
  obtain ⟨hpattern, hmask⟩ := opcodeMap_shape r hr
  have hop : opField r.pattern < 64 := by have := r.pattern.isLt; rw [opField]; omega
  refine and_row _ _ hop hpattern hmask ?_
  rw [BitVec.and_comm r.mask, ← BitVec.and_assoc]
  exact BitVec.zero_and

/-- No two rows have the same OP. -/
theorem row_eq_of_opField_eq {r r' : OpcodeRow} (hr : r ∈ opcodeMap) (hr' : r' ∈ opcodeMap)
    (h : opField r.pattern = opField r'.pattern) : r = r' :=
  List.inj_on_of_nodup_map (f := fun r => opField r.pattern) (by decide) hr hr' h

/-- Where the OP of a first word has a row, a match with any row is that the row's reserved bits are 0. -/
theorem exists_row_iff {reserved : Word} {words n : Nat} (row : HasRow (opField w) reserved words) :
    (∃ r ∈ opcodeMap, w &&& r.mask = r.pattern ∧ r.words ≤ n) ↔ w &&& reserved = 0#32 ∧ words ≤ n := by
  obtain ⟨r, hr, hop, rfl, rfl⟩ := row
  constructor
  · rintro ⟨r', hr', hmatch, hwords⟩
    obtain ⟨hop', hzero⟩ := (row_matches_iff hr' w).mp hmatch
    obtain rfl := row_eq_of_opField_eq hr hr' (hop.trans hop')
    exact ⟨hzero, hwords⟩
  · rintro ⟨hzero, hwords⟩
    exact ⟨r, hr, (row_matches_iff hr w).mpr ⟨hop.symm, hzero⟩, hwords⟩

section Arm

variable {w : Word} {rest : List Word} {e : Except DecodeError Instr}

theorem formatVlit_isOk_iff :
    (∃ i, formatVlit w rest = .ok i) ↔ lowBitsZero w 22 = true ∧ 5 ≤ rest.length + 1 := by
  match rest with
  | [] | [_] | [_, _] | [_, _, _] => simp
  | _ :: _ :: _ :: _ :: _ => simp

theorem formatXli_isOk_iff :
    (∃ i, formatXli w rest = .ok i) ↔ lowBitsZero w 22 = true ∧ 3 ≤ rest.length + 1 := by
  match rest with
  | [] | [_] => simp
  | _ :: _ :: _ => simp

/-- An arm answers a command where the bits that its row reserves are 0 and its literal words follow. -/
theorem DecodeArm.isOk_iff (arm : DecodeArm (opField w) w rest e) :
    (∃ i, e = .ok i) ↔ ∃ r ∈ opcodeMap, w &&& r.mask = r.pattern ∧ r.words ≤ rest.length + 1 := by
  cases arm with
  | readD row => rw [exists_row_iff row, and_low_twentytwo]; simp
  | readDA row => rw [exists_row_iff row, and_low_eighteen]; simp
  | readDAB row => rw [exists_row_iff row, and_low_fourteen]; simp
  | readDABC row => rw [exists_row_iff row, and_low_ten]; simp
  | readAB row => rw [exists_row_iff row, and_formatAB]; simp
  | readABC row => rw [exists_row_iff row, and_formatABC]; simp
  | readI row => rw [exists_row_iff row, and_reservedI]; simp
  | readVlit row => rw [exists_row_iff row, and_low_twentytwo, formatVlit_isOk_iff]
  | readXli row => rw [exists_row_iff row, and_low_twentytwo, formatXli_isOk_iff]
  | unassigned noRow =>
    constructor
    · rintro ⟨i, h⟩; cases h
    · rintro ⟨r, hr, hmatch, -⟩; exact absurd ((row_matches_iff hr w).mp hmatch).1 (noRow r hr)

end Arm

/-- Settles O37: each arm accepts what its row of the map accepts, and rows that match one word have its OP. -/
theorem decoderFollowsTheOpcodeMap : Obligations.DecoderFollowsTheOpcodeMap := by
  refine ⟨fun w rest => (decodeOp_arm (opField w) w rest).isOk_iff, fun w r hr r' hr' h h' => ?_⟩
  obtain ⟨hop, -⟩ := (row_matches_iff hr w).mp h
  obtain ⟨hop', -⟩ := (row_matches_iff hr' w).mp h'
  exact row_eq_of_opField_eq hr hr' (hop.symm.trans hop')

/-- Settles O34, by running the decoder on the eight words. -/
theorem writtenWordsDecode : Obligations.WrittenWordsDecode := by
  unfold Obligations.WrittenWordsDecode
  decide

end Sys2Proof

/-! # BitRegister128 (40_bitregister128.md)

What completing a command, and what raising a fault, says in the terms of the statements; the access check read the same
way; one lemma per shape that these commands share; and the nine statements about them. -/

namespace Sys2Proof.Machine

open Sys2Proof.Claims

variable {i : Instr} {s : State} {n : Nat}

/-! ## The words and values of the statements -/

theorem toNat_append_eq {v w : Nat} (x : BitVec v) (y : BitVec w) :
    (x ++ y).toNat = x.toNat * 2 ^ w + y.toNat := by
  rw [BitVec.toNat_append, ← Nat.shiftLeft_add_eq_or_of_lt y.isLt, Nat.shiftLeft_eq]

/-- The first word written field by field is the encoder's (30_encoding.md R91). -/
theorem wordR_eq_firstWordR (op : BitVec 6) (d a b c : Fin 16) :
    wordR op.toNat d a b c = firstWordR op d a b c := by
  apply BitVec.eq_of_toNat_eq
  have hword : (firstWordR op d a b c).toNat =
      ((((op.toNat * 2 ^ 4 + d.val) * 2 ^ 4 + a.val) * 2 ^ 4 + b.val) * 2 ^ 4 + c.val) * 2 ^ 10 := by
    unfold firstWordR
    change BitVec.toNat (w := 6 + 4 + 4 + 4 + 4 + 10) _ = _
    simp only [toNat_append_eq, BitVec.toNat_ofFin, BitVec.toNat_zero, Nat.add_zero]
  rw [toNat_wordR op.isLt, hword]
  omega

theorem encode_eq_firstWordR {op : BitVec 6} {d a b c : Fin 16} (h : encode i = [wordR op.toNat d a b c]) :
    encode i = [firstWordR op d a b c] := by
  rw [h, wordR_eq_firstWordR]

/-- The statements read a lane as the model does (00_scope.md R11). -/
theorem byteLane_lanes (f : Nat → Lane) {j : Nat} (h : j < 16) : byteLane (lanes f) j = f j := lane_lanes f h

/-- Fault entry leaves the state that the statements describe (60_exceptions.md R290). -/
theorem enterFault_eq_faultState (s : State) (c : Cause) (addr : Scalar) :
    enterFault s c addr = faultState s (causeCode c) addr := by
  cases c <;> rfl

/-! ## What a command's computation says of the command -/

theorem raises_of_exec {r : Raised} (h : exec i s = complete n s (.error r)) :
    Raises i s (causeCode r.cause) r.addr := by
  rw [Raises, h, complete_error, enterFault_eq_faultState]

theorem givesVector_of_exec {d : VReg} {val : Vec} {good : Vec → Prop}
    (h : exec i s = complete n s (.ok (setV s d val))) (hgood : good val) : GivesVector i s n d good :=
  ⟨advance (setV s d val) n, val, h, vreg_setV_self s d val, hgood, rfl,
    fun _ hr => vreg_setV_ne s val hr, fun _ => rfl, ⟨rfl, rfl, rfl, rfl⟩, fun _ => rfl, rfl, rfl⟩

theorem givesScalar_of_exec {d : XReg} {val : Scalar} {good : Scalar → Prop}
    (h : exec i s = complete n s (.ok (setX s d val))) (hgood : good val) : GivesScalar i s n d good :=
  ⟨advance (setX s d val) n, val, h, xreg_setX_self s d val, hgood, rfl,
    fun _ => rfl, fun _ hr => xreg_setX_ne s val hr, ⟨rfl, rfl, rfl, rfl⟩, fun _ => rfl, rfl, rfl⟩

/-! ## The access check (20_memory.md R64) -/

theorem checkAccess_of_accessible {a : Scalar} {k : Nat} {kind : AccessKind} (h : Accessible s a.toNat k kind) :
    checkAccess s a k kind = .ok () := by
  obtain ⟨hle, hvalid⟩ := h
  exact checkAccess_ok_of_valid hle hvalid

theorem checkAccess_of_wraps {a : Scalar} {k : Nat} (kind : AccessKind) (h : 2 ^ 64 < a.toNat + k) :
    checkAccess s a k kind = .error ⟨.memoryFault, a⟩ := by
  have ha := a.isLt
  cases hc : checkAccess s a k kind with
  | ok u =>
    obtain rfl | ⟨hle, -⟩ := checkAccess_ok_iff.mp hc <;> omega
  | error r =>
    obtain ⟨c, addr⟩ := r
    obtain ⟨rfl, -, ⟨-, rfl⟩ | ⟨hle, -⟩⟩ := checkAccess_error hc
    · rfl
    · omega

/-- The byte recorded is the lowest invalid one, and there is only one such byte. -/
theorem checkAccess_of_lowestInvalid {a : Scalar} {k j : Nat} {kind : AccessKind}
    (h : LowestInvalid s a.toNat k j kind) :
    checkAccess s a k kind = .error ⟨.memoryFault, BitVec.ofNat 64 (a.toNat + j)⟩ := by
  obtain ⟨hle, hj, hinvalid, hbelow⟩ := h
  cases hc : checkAccess s a k kind with
  | ok u =>
    obtain rfl | ⟨-, hvalid⟩ := checkAccess_ok_iff.mp hc
    · omega
    · simp [hvalid j hj] at hinvalid
  | error r =>
    obtain ⟨c, addr⟩ := r
    obtain ⟨rfl, -, ⟨hwrap, -⟩ | ⟨-, j', -, hinvalid', hbelow', rfl⟩⟩ := checkAccess_error hc
    · omega
    · obtain hlt | rfl | hlt := Nat.lt_trichotomy j j'
      · simp [hbelow' j hlt] at hinvalid
      · rfl
      · simp [hbelow j' hlt] at hinvalid'

/-- A command that ends in whatever the access check raises makes the access check of the statements. -/
theorem checksAccess_of_exec {addr : Scalar} {k : Nat} {kind : AccessKind}
    (h : ∀ r, checkAccess s addr k kind = .error r → exec i s = complete n s (.error r)) :
    ChecksAccess i s addr k kind :=
  ⟨fun hwrap => raises_of_exec (h _ (checkAccess_of_wraps kind hwrap)),
    fun _ hj => raises_of_exec (h _ (checkAccess_of_lowestInvalid hj))⟩

/-! ## Loads and stores -/

theorem givesVector_of_loadLanes {d : VReg} {addr : Scalar} {len k : Nat} (hk : k ≤ len)
    (h : exec i s = complete n s (loadLanes d addr len k s)) (hacc : Accessible s addr.toNat len .read) :
    GivesVector i s n d fun r => ∀ j < 16, byteLane r j =
      if j < k then Memory.read s.mem (addr.toNat + j) else 0 := by
  rw [loadLanes_ok (checkAccess_of_accessible hacc) hk] at h
  exact givesVector_of_exec h fun j hj => byteLane_lanes _ hj

theorem givesVector_of_fullLoad {d : VReg} {addr : Scalar} (h : exec i s = complete n s (loadLanes d addr 16 16 s))
    (hacc : Accessible s addr.toNat 16 .read) :
    GivesVector i s n d fun r => ∀ j < 16, byteLane r j = Memory.read s.mem (addr.toNat + j) := by
  obtain ⟨t, r, hexec, hr, hlanes, hframe⟩ := givesVector_of_loadLanes le_rfl h hacc
  exact ⟨t, r, hexec, hr, fun j hj => by rw [hlanes j hj, if_pos hj], hframe⟩

theorem checksAccess_of_loadLanes {d : VReg} {addr : Scalar} {len k : Nat}
    (h : exec i s = complete n s (loadLanes d addr len k s)) : ChecksAccess i s addr len .read :=
  checksAccess_of_exec fun _ hr => by rw [h, loadLanes_error hr]

theorem storesLanes_of_storeLanes {val : Vec} {addr : Scalar} {k : Nat}
    (h : exec i s = complete 1 s (storeLanes val addr k s)) (hw : Memory.wf s.mem = true)
    (hacc : Accessible s addr.toNat k .write) : StoresLanes i s val addr.toNat k := by
  rw [storeLanes_ok (checkAccess_of_accessible hacc)] at h
  obtain ⟨hle, -⟩ := hacc
  exact ⟨_, h, read_storeLanes hw hle, fun _ => rfl, fun _ => rfl, ⟨rfl, rfl, rfl, rfl⟩, ⟨rfl, rfl⟩, rfl⟩

theorem checksAccess_of_storeLanes {val : Vec} {addr : Scalar} {k : Nat}
    (h : exec i s = complete n s (storeLanes val addr k s)) : ChecksAccess i s addr k .write :=
  checksAccess_of_exec fun _ hr => by rw [h, storeLanes_error hr]

/-- An aligned footprint of 16 bytes never wraps (20_memory.md R65). -/
theorem aligned_add_sixteen_le {addr : Scalar} (h : addr.toNat % 16 = 0) : addr.toNat + 16 ≤ 2 ^ 64 := by
  have := addr.isLt
  omega

/-! ## The four full memory commands -/

section FullAccess

variable {val : Vec} {addr : Scalar}

theorem exec_vld {d : VReg} {a : XReg} (h : xreg s a = some addr) :
    exec (.vld d a) s = complete 1 s (loadLanes d addr 16 16 s) := by
  simp only [exec, execVld, readX_ok h, except_ok_bind]

theorem exec_vld_unwritten {d : VReg} {a : XReg} (h : xreg s a = none) :
    exec (.vld d a) s = complete 1 s (.error ⟨.unwrittenRegister, 0⟩) := by
  simp only [exec, execVld, readX_none h, except_error_bind]

theorem exec_vlda_aligned {d : VReg} {a : XReg} (h : xreg s a = some addr) (ha : addr.toNat % 16 = 0) :
    exec (.vlda d a) s = exec (.vld d a) s := by
  simp only [exec, execVlda, execVld, readX_ok h, requireAligned_ok ha, except_ok_bind]

theorem exec_vlda_misaligned {d : VReg} {a : XReg} (h : xreg s a = some addr) (ha : addr.toNat % 16 ≠ 0) :
    exec (.vlda d a) s = complete 1 s (.error ⟨.misalignedAccess, addr⟩) := by
  simp only [exec, execVlda, readX_ok h, requireAligned_error ha, except_ok_bind, except_error_bind]

theorem exec_vlda_unwritten {d : VReg} {a : XReg} (h : xreg s a = none) :
    exec (.vlda d a) s = complete 1 s (.error ⟨.unwrittenRegister, 0⟩) := by
  simp only [exec, execVlda, readX_none h, except_error_bind]

/-- A store reads its data and its address register before anything else (60_exceptions.md R289). -/
theorem readV_readX_unwritten {a : VReg} {b : XReg} (f : Vec → Scalar → Except Raised State)
    (h : vreg s a = none ∨ xreg s b = none) :
    (readV s a >>= fun p => readX s b >>= fun x => f p x) = .error ⟨.unwrittenRegister, 0⟩ := by
  obtain ⟨p, hp, e⟩ | ⟨-, e⟩ := readV_cases s a
  · obtain ha | hb := h
    · rw [hp] at ha; cases ha
    · rw [e, except_ok_bind, readX_none hb, except_error_bind]
  · rw [e, except_error_bind]

theorem exec_vst {a : VReg} {b : XReg} (hv : vreg s a = some val) (hx : xreg s b = some addr) :
    exec (.vst a b) s = complete 1 s (storeLanes val addr 16 s) := by
  simp only [exec, execVst, readV_ok hv, readX_ok hx, except_ok_bind]

theorem exec_vst_unwritten {a : VReg} {b : XReg} (h : vreg s a = none ∨ xreg s b = none) :
    exec (.vst a b) s = complete 1 s (.error ⟨.unwrittenRegister, 0⟩) :=
  congrArg (complete 1 s) (readV_readX_unwritten _ h)

theorem exec_vsta_aligned {a : VReg} {b : XReg} (h : xreg s b = some addr) (ha : addr.toNat % 16 = 0) :
    exec (.vsta a b) s = exec (.vst a b) s := by
  simp only [exec, execVsta, execVst, readX_ok h, requireAligned_ok ha, except_ok_bind]

theorem exec_vsta_misaligned {a : VReg} {b : XReg} (hv : vreg s a = some val) (hx : xreg s b = some addr)
    (ha : addr.toNat % 16 ≠ 0) : exec (.vsta a b) s = complete 1 s (.error ⟨.misalignedAccess, addr⟩) := by
  simp only [exec, execVsta, readV_ok hv, readX_ok hx, requireAligned_error ha, except_ok_bind, except_error_bind]

theorem exec_vsta_unwritten {a : VReg} {b : XReg} (h : vreg s a = none ∨ xreg s b = none) :
    exec (.vsta a b) s = complete 1 s (.error ⟨.unwrittenRegister, 0⟩) :=
  congrArg (complete 1 s) (readV_readX_unwritten _ h)

end FullAccess

/-! ## The rules of the shared shapes -/

theorem unaryRule_of_exec {op : BitVec 6} {mk : VReg → VReg → Instr} {f : Vec → Vec} {good : Vec → Vec → Prop}
    (henc : ∀ d a, encode (mk d a) = [wordR op.toNat d a 0 0])
    (hexec : ∀ d a s, exec (mk d a) s = complete 1 s (vecUnary f d a s)) (hgood : ∀ p, good p (f p)) :
    UnaryRule op mk good := by
  refine fun d a s => ⟨encode_eq_firstWordR (henc d a), fun p hp => ?_, fun ha => ?_⟩
  · exact givesVector_of_exec (by rw [hexec, vecUnary_ok hp]) (hgood p)
  · obtain ⟨p, hp, -⟩ | ⟨-, e⟩ := vecUnary_cases f d a s
    · rw [ha] at hp; cases hp
    · exact raises_of_exec (by rw [hexec, e])

theorem binaryRule_of_exec {op : BitVec 6} {mk : VReg → VReg → VReg → Instr} {f : Vec → Vec → Vec}
    {good : Vec → Vec → Vec → Prop} (henc : ∀ d a b, encode (mk d a b) = [wordR op.toNat d a b 0])
    (hexec : ∀ d a b s, exec (mk d a b) s = complete 1 s (vecBinary f d a b s))
    (hgood : ∀ p q, good p q (f p q)) : BinaryRule op mk good := by
  refine fun d a b s => ⟨encode_eq_firstWordR (henc d a b), fun p q hp hq => ?_, fun hab => ?_⟩
  · exact givesVector_of_exec (by rw [hexec, vecBinary_ok hp hq]) (hgood p q)
  · obtain ⟨p, q, hp, hq, -⟩ | ⟨-, e⟩ := vecBinary_cases f d a b s
    · simp [hp, hq] at hab
    · exact raises_of_exec (by rw [hexec, e])

theorem reductionRule_of_exec {op : BitVec 6} {mk : XReg → VReg → Instr} {f : Vec → Scalar}
    {good : Vec → Scalar → Prop} (henc : ∀ d a, encode (mk d a) = [wordR op.toNat d a 0 0])
    (hexec : ∀ d a s, exec (mk d a) s = complete 1 s (vecToScalar f d a s)) (hgood : ∀ p, good p (f p)) :
    ReductionRule op mk good := by
  refine fun d a s => ⟨encode_eq_firstWordR (henc d a), fun p hp => ?_, fun ha => ?_⟩
  · exact givesScalar_of_exec (by rw [hexec, vecToScalar_ok hp]) (hgood p)
  · obtain ⟨p, hp, -⟩ | ⟨-, e⟩ := vecToScalar_cases f d a s
    · rw [ha] at hp; cases hp
    · exact raises_of_exec (by rw [hexec, e])

/-! ## The bit tests -/

theorem isAllOnes_iff (p : Vec) : isAllOnes p = true ↔ ∀ j < 128, p.getLsbD j = true := by
  rw [isAllOnes, beq_iff_eq]
  constructor
  · rintro rfl j hj
    exact getLsbD_allOnes hj
  · exact fun h => BitVec.eq_of_getLsbD_eq fun j hj => (h j hj).trans (getLsbD_allOnes hj).symm

theorem isAnyOne_eq_false_iff (p : Vec) : isAnyOne p = false ↔ ∀ j < 128, p.getLsbD j = false := by
  rw [isAnyOne, bne_eq_false_iff_eq]
  constructor
  · rintro rfl j -
    exact BitVec.getLsbD_zero
  · exact fun h => BitVec.eq_of_getLsbD_eq fun j hj => (h j hj).trans BitVec.getLsbD_zero.symm

theorem boolScalar_of_eq_true {b : Bool} (h : b = true) : boolScalar b = 1 := by rw [h]; rfl

theorem boolScalar_of_eq_false {b : Bool} (h : b = false) : boolScalar b = 0 := by rw [h]; rfl

/-! ## The obligations -/

/-- Settles O2: past the register read the command is a load, whose only faults are those of the access check. -/
theorem vldLoadsSixteenBytes : Obligations.VldLoadsSixteenBytes := by
  refine fun d a s => ⟨encode_eq_firstWordR rfl, fun addr hx => ?_, fun hx => ?_⟩
  · exact ⟨givesVector_of_fullLoad (exec_vld hx), checksAccess_of_loadLanes (exec_vld hx)⟩
  · exact raises_of_exec (exec_vld_unwritten hx)

/-- Settles O3: past the two register reads the command is a store, whose only faults are those of the access check. -/
theorem vstStoresSixteenBytes : Obligations.VstStoresSixteenBytes := by
  refine fun a b s => ⟨encode_eq_firstWordR rfl, fun val addr hv hx => ?_, fun h => ?_⟩
  · exact ⟨storesLanes_of_storeLanes (exec_vst hv hx), checksAccess_of_storeLanes (exec_vst hv hx)⟩
  · exact raises_of_exec (exec_vst_unwritten h)

/-- Settles O4: at a multiple of 16 the command is VLD; elsewhere it faults before any byte is looked at. -/
theorem vldaLoadsAlignedBytes : Obligations.VldaLoadsAlignedBytes := by
  refine fun d a s => ⟨encode_eq_firstWordR rfl, fun addr hx => ⟨?_, ?_⟩, fun hx => ?_⟩
  · exact fun ha => raises_of_exec (exec_vlda_misaligned hx ha)
  · intro ha
    have hload := (exec_vlda_aligned (d := d) hx ha).trans (exec_vld hx)
    obtain ⟨-, hvalid⟩ := checksAccess_of_loadLanes hload
    exact ⟨givesVector_of_fullLoad hload, hvalid, aligned_add_sixteen_le ha⟩
  · exact raises_of_exec (exec_vlda_unwritten hx)

/-- Settles O5: at a multiple of 16 the command is VST; elsewhere it faults before any byte is looked at. -/
theorem vstaStoresAlignedBytes : Obligations.VstaStoresAlignedBytes := by
  refine fun a b s => ⟨encode_eq_firstWordR rfl, fun val addr hv hx => ⟨?_, ?_⟩, fun h => ?_⟩
  · exact fun ha => raises_of_exec (exec_vsta_misaligned hv hx ha)
  · intro ha
    have hstore := (exec_vsta_aligned hx ha).trans (exec_vst hv hx)
    obtain ⟨-, hvalid⟩ := checksAccess_of_storeLanes hstore
    exact ⟨storesLanes_of_storeLanes hstore, hvalid, aligned_add_sixteen_le ha⟩
  · exact raises_of_exec (exec_vsta_unwritten h)

/-- Settles O6: each of the four is a binary shape over a bitwise operation of the whole vector. -/
theorem bitwiseCommandsCombineBits : Obligations.BitwiseCommandsCombineBits :=
  ⟨binaryRule_of_exec (fun _ _ _ => rfl) (fun _ _ _ _ => rfl) fun _ _ _ _ => BitVec.getLsbD_and,
    binaryRule_of_exec (fun _ _ _ => rfl) (fun _ _ _ _ => rfl) fun _ _ _ _ => BitVec.getLsbD_or,
    binaryRule_of_exec (fun _ _ _ => rfl) (fun _ _ _ _ => rfl) fun _ _ _ _ => BitVec.getLsbD_xor,
    binaryRule_of_exec (fun _ _ _ => rfl) (fun _ _ _ _ => rfl) fun _ _ _ hj => by simp [hj]⟩

/-- Settles O7: VNOT is the unary shape over the complement of the whole vector. -/
theorem vnotComplementsBits : Obligations.VnotComplementsBits :=
  unaryRule_of_exec (fun _ _ => rfl) (fun _ _ _ => rfl) fun p j hj => by simp [hj]

/-- Settles O8: all 128 bits are 1 only in ALL1, and all are 0 only in the zero vector. -/
theorem bitTestsWriteOneOrZero : Obligations.BitTestsWriteOneOrZero := by
  refine ⟨reductionRule_of_exec (fun _ _ => rfl) (fun _ _ _ => rfl) fun p => ⟨fun h => ?_, ?_⟩,
    reductionRule_of_exec (fun _ _ => rfl) (fun _ _ _ => rfl) fun p => ⟨?_, fun h => ?_⟩⟩
  · exact boolScalar_of_eq_true ((isAllOnes_iff p).mpr h)
  · rintro ⟨j, hj, hbit⟩
    refine boolScalar_of_eq_false (Bool.eq_false_iff.mpr fun h => ?_)
    rw [(isAllOnes_iff p).mp h j hj] at hbit
    cases hbit
  · rintro ⟨j, hj, hbit⟩
    refine boolScalar_of_eq_true (Bool.ne_false_iff.mp fun h => ?_)
    rw [(isAnyOne_eq_false_iff p).mp h j hj] at hbit
    cases hbit
  · exact boolScalar_of_eq_false ((isAnyOne_eq_false_iff p).mpr h)

/-- Settles O50: the alignment check passes, and it is all that sets the two commands apart. -/
theorem alignedAccessEqualsUnaligned : Obligations.AlignedAccessEqualsUnaligned :=
  ⟨fun _ _ _ _ hx ha => exec_vlda_aligned hx ha, fun _ _ _ _ hx ha => exec_vsta_aligned hx ha⟩

/-- Settles O1: VZERO reads no register, so it always completes. -/
theorem vzeroWritesZero : Obligations.VzeroWritesZero :=
  fun _ _ => ⟨encode_eq_firstWordR rfl, givesVector_of_exec rfl rfl⟩

end Sys2Proof.Machine

/-! # Lane construction, partial load and store (41_lane_construct_memory.md)

The helpers of the statements against those of the model; what each of these commands computes from written registers,
and that an unwritten one ends it first; and the ten statements about them. -/

namespace Sys2Proof.Machine

open Sys2Proof.Claims

variable {s t : State}

/-! ## The integers of the statements -/

/-- The low bits of a scalar are its signed value modulo a power of two. -/
theorem toNat_lowBits (x : Scalar) {k : Nat} (hk : k ≤ 64) :
    ((x.extractLsb' 0 k).toNat : Int) = x.toInt % 2 ^ k := by
  have hdvd : (2 : Int) ^ k ∣ ((2 ^ 64 : Nat) : Int) := by
    rw [Nat.cast_pow]
    exact pow_dvd_pow 2 hk
  calc ((x.extractLsb' 0 k).toNat : Int)
      = (x.toNat : Int) % 2 ^ k := by simp
    _ = (x.toNat : Int) % ((2 ^ 64 : Nat) : Int) % 2 ^ k := (Int.emod_emod_of_dvd _ hdvd).symm
    _ = x.toInt % ((2 ^ 64 : Nat) : Int) % 2 ^ k := by rw [BitVec.toInt_eq_toNat_bmod, Int.bmod_emod]
    _ = x.toInt % 2 ^ k := Int.emod_emod_of_dvd _ hdvd

theorem toNat_scalarByte (x : Scalar) : ((scalarByte x).toNat : Int) = x.toInt % 256 :=
  toNat_lowBits x (by decide)

theorem laneIndex_eq_emod (x : Scalar) : (laneIndex x : Int) = x.toInt % 16 :=
  toNat_lowBits x (by decide)

theorem clamp16_eq_clampCount (n : Int) : clamp16 n = clampCount n := by
  unfold clamp16 clampCount
  split
  · omega
  · split <;> omega

theorem clampCount_eq_toNat {n : Scalar} (h0 : 0 ≤ n.toInt) (h16 : n.toInt ≤ 16) :
    clampCount n.toInt = n.toNat := by
  have hmsb : n.msb = false := BitVec.msb_eq_false_iff_two_mul_lt.mpr (BitVec.toInt_pos_iff.mp h0)
  rw [clampCount, max_eq_right h0, min_eq_right h16, BitVec.toInt_eq_toNat_of_msb hmsb, Int.toNat_natCast]

/-- Below 16 the clamped length bounds the same lanes as the length itself, of any sign (R153). -/
theorem lt_clamp16_iff {j : Nat} (hj : j < 16) (n : Int) : j < clamp16 n ↔ (j : Int) < n := by
  rw [clamp16_eq_clampCount, clampCount]
  omega

theorem samePage_iff (p : Platform) (a : Nat) :
    samePage p a = true ↔ a + 15 < 2 ^ 64 ∧ a / (16 * 2 ^ p.pageShift) = (a + 15) / (16 * 2 ^ p.pageShift) := by
  rw [samePage, Bool.and_eq_true, decide_eq_true_eq, decide_eq_true_eq, pageSize]
  exact and_congr_left' (by omega)

/-- The model reads the footprint that 20_memory.md R70 asks for. -/
theorem partialReadLength_eq_partialFootprint (s : State) (a k : Nat) :
    partialReadLength s.platform a k = partialFootprint s a k := by
  unfold partialReadLength partialFootprint
  simp only [samePage_iff]
  by_cases h16 : k = 16
  · simp [h16]
  · simp only [h16, false_or, if_false]

theorem le_partialFootprint (s : State) (a : Nat) (n : Int) :
    clampCount n ≤ partialFootprint s a (clampCount n) := by
  rw [← partialReadLength_eq_partialFootprint, ← clamp16_eq_clampCount]
  exact le_partialReadLength _ _ (clamp16_le n)

/-! ## Reads that end a command

Registers are read one after the other, so the fault is the same whichever of them is unwritten (60_exceptions.md
R289). -/

theorem readX_bind_unwritten {r : XReg} {f : Scalar → Except Raised State}
    (h : xreg s r = none ∨ ∀ n, f n = .error ⟨.unwrittenRegister, 0⟩) :
    (readX s r >>= f) = .error ⟨.unwrittenRegister, 0⟩ := by
  obtain ⟨n, hn, e⟩ | ⟨-, e⟩ := readX_cases s r
  · obtain hr | hf := h
    · rw [hr] at hn; cases hn
    · rw [e, except_ok_bind, hf]
  · rw [e, except_error_bind]

theorem readV_bind_unwritten {r : VReg} {f : Vec → Except Raised State}
    (h : vreg s r = none ∨ ∀ p, f p = .error ⟨.unwrittenRegister, 0⟩) :
    (readV s r >>= f) = .error ⟨.unwrittenRegister, 0⟩ := by
  obtain ⟨p, hp, e⟩ | ⟨-, e⟩ := readV_cases s r
  · obtain hr | hf := h
    · rw [hr] at hp; cases hp
    · rw [e, except_ok_bind, hf]
  · rw [e, except_error_bind]

/-- A command that reads v[a], x[b] and x[c] before anything else. -/
theorem readV_readX_readX_unwritten {a : VReg} {b c : XReg} {f : Vec → Scalar → Scalar → Except Raised State}
    (h : vreg s a = none ∨ xreg s b = none ∨ xreg s c = none) :
    (readV s a >>= fun p => readX s b >>= fun m => readX s c >>= fun n => f p m n) =
      .error ⟨.unwrittenRegister, 0⟩ :=
  readV_bind_unwritten <| h.imp_right fun hbc _ => readX_bind_unwritten <| hbc.imp_right fun hc _ =>
    readX_bind_unwritten (.inl hc)

/-! ## What the commands compute -/

section Commands

variable {p : Vec} {addr m n : Scalar}

theorem exec_vbcast {d : VReg} {a : XReg} (h : xreg s a = some n) :
    exec (.vbcast d a) s = complete 1 s (.ok (setV s d (lanes fun _ => scalarByte n))) := by
  simp only [exec, execVbcast, readX_ok h, except_ok_bind]; rfl

theorem exec_vbcast_unwritten {d : VReg} {a : XReg} (h : xreg s a = none) :
    exec (.vbcast d a) s = complete 1 s (.error ⟨.unwrittenRegister, 0⟩) :=
  congrArg (complete 1 s) (readX_bind_unwritten (.inl h))

/-- Past its two register reads a partial load is a load of the footprint of R70. -/
theorem exec_vldp {d : VReg} {a b : XReg} (ha : xreg s a = some addr) (hb : xreg s b = some n) :
    exec (.vldp d a b) s = complete 1 s
      (loadLanes d addr (partialFootprint s addr.toNat (clampCount n.toInt)) (clampCount n.toInt) s) := by
  rw [← partialReadLength_eq_partialFootprint, ← clamp16_eq_clampCount]
  simp only [exec, execVldp, readX_ok ha, readX_ok hb, except_ok_bind]

theorem exec_vldp_unwritten {d : VReg} {a b : XReg} (h : xreg s a = none ∨ xreg s b = none) :
    exec (.vldp d a b) s = complete 1 s (.error ⟨.unwrittenRegister, 0⟩) :=
  congrArg (complete 1 s) <| readX_bind_unwritten <| h.imp_right fun hb _ => readX_bind_unwritten (.inl hb)

theorem exec_vstp {a : VReg} {b c : XReg} (ha : vreg s a = some p) (hb : xreg s b = some addr)
    (hc : xreg s c = some n) :
    exec (.vstp a b c) s = complete 1 s (storeLanes p addr (clampCount n.toInt) s) := by
  rw [← clamp16_eq_clampCount]
  simp only [exec, execVstp, readV_ok ha, readX_ok hb, readX_ok hc, except_ok_bind]

theorem exec_vstp_unwritten {a : VReg} {b c : XReg} (h : vreg s a = none ∨ xreg s b = none ∨ xreg s c = none) :
    exec (.vstp a b c) s = complete 1 s (.error ⟨.unwrittenRegister, 0⟩) :=
  congrArg (complete 1 s) (readV_readX_readX_unwritten h)

theorem exec_vins {d a : VReg} {b c : XReg} (ha : vreg s a = some p) (hb : xreg s b = some m)
    (hc : xreg s c = some n) :
    exec (.vins d a b c) s = complete 1 s (.ok (setV s d (insertLane (laneIndex m) (scalarByte n) p))) := by
  simp only [exec, execVins, readV_ok ha, readX_ok hb, readX_ok hc, except_ok_bind]; rfl

theorem exec_vins_unwritten {d a : VReg} {b c : XReg}
    (h : vreg s a = none ∨ xreg s b = none ∨ xreg s c = none) :
    exec (.vins d a b c) s = complete 1 s (.error ⟨.unwrittenRegister, 0⟩) :=
  congrArg (complete 1 s) (readV_readX_readX_unwritten h)

theorem exec_vext {d : XReg} {a : VReg} {b : XReg} (ha : vreg s a = some p) (hb : xreg s b = some m) :
    exec (.vext d a b) s = complete 1 s (.ok (setX s d ((lane p (laneIndex m)).signExtend 64))) := by
  simp only [exec, execVext, readV_ok ha, readX_ok hb, except_ok_bind]; rfl

theorem exec_vext_unwritten {d : XReg} {a : VReg} {b : XReg} (h : vreg s a = none ∨ xreg s b = none) :
    exec (.vext d a b) s = complete 1 s (.error ⟨.unwrittenRegister, 0⟩) :=
  congrArg (complete 1 s) (readV_readX_unwritten _ h)

end Commands

theorem scalarOperandRule_of_exec {op : BitVec 6} {mk : VReg → VReg → XReg → Instr} {f : Vec → Scalar → Vec}
    {good : Vec → Scalar → Vec → Prop} (henc : ∀ d a b, encode (mk d a b) = [wordR op.toNat d a b 0])
    (hexec : ∀ d a b s, exec (mk d a b) s = complete 1 s (vecScalar f d a b s))
    (hgood : ∀ p n, good p n (f p n)) : ScalarOperandRule op mk good := by
  refine fun d a b s => ⟨encode_eq_firstWordR (henc d a b), fun p n hp hn => ?_, fun hab => ?_⟩
  · exact givesVector_of_exec (by rw [hexec, vecScalar_ok hp hn]) (hgood p n)
  · obtain ⟨p, n, hp, hn, -⟩ | ⟨-, e⟩ := vecScalar_cases f d a b s
    · simp [hp, hn] at hab
    · exact raises_of_exec (by rw [hexec, e])

/-! ## VLIT in the stream (30_encoding.md R99) -/

theorem encode_vlit_append (d : VReg) (w1 w2 w3 w4 : Word) :
    encode (.vlit d (w4 ++ w3 ++ w2 ++ w1)) = [firstWordR 0x04 d 0 0 0, w1, w2, w3, w4] := by
  obtain ⟨h1, h2, h3, h4⟩ := literal_append_four w1 w2 w3 w4
  rw [encode, h1, h2, h3, h4]
  exact congrArg (· :: _) (wordR_eq_firstWordR 0x04 d 0 0 0)

theorem formatVlit_truncated {w : Word} {rest : List Word} (hw : lowBitsZero w 22 = true) (h : rest.length < 4) :
    formatVlit w rest = .error .truncated := by
  unfold formatVlit
  rw [if_pos hw]
  match rest, h with
  | [], _ | [_], _ | [_, _], _ | [_, _, _], _ => rfl

theorem decode_vlit_truncated (d : VReg) {rest : List Word} (h : rest.length < 4) :
    decode (firstWordR 0x04 d 0 0 0 :: rest) = .error .truncated := by
  have hop : (0x04 : BitVec 6).toNat = 0x04 := rfl
  rw [← wordR_eq_firstWordR, hop, decode_wordR_cons (by decide), decodeOp]
  exact formatVlit_truncated (lowBitsZero_wordR_twentytwo (by decide) d) h

/-- A word left of the stream, and no fault: the block is running (60_exceptions.md R300). -/
theorem phase_running_of_fetchWords {w : Word} {rest : List Word} (hf : faultOut s = false)
    (h : fetchWords s = w :: rest) : phase s = .running := by
  refine phase_running_iff.mpr ⟨hf, ?_⟩
  have hlen := congrArg List.length h
  rw [fetchWords, List.length_drop, List.length_cons] at hlen
  omega

/-! ## A partial load that completes -/

/-- Only a fault leaves `cix` where it is; the value a completed load writes speaks of memory and the two operands
alone. -/
theorem vreg_of_completed_vldp {d : VReg} {a b : XReg} (h : exec (.vldp d a b) s = .next t)
    (hcix : t.cix = s.cix + 1) :
    ∃ addr n, readX s a = .ok addr ∧ readX s b = .ok n ∧ vreg t d = some (lanes fun j =>
      if j < clamp16 n.toInt then Memory.read s.mem (addr.toNat + j) else 0) := by
  obtain ⟨u, hu, rfl⟩ | ⟨r, -, rfl⟩ := complete_cases h
  · obtain ⟨addr, ha, hu⟩ := except_bind_ok.mp hu
    obtain ⟨n, hb, hu⟩ := except_bind_ok.mp hu
    refine ⟨addr, n, ha, hb, ?_⟩
    obtain ⟨-, e⟩ | ⟨r, -, e⟩ := loadLanes_cases d addr
      (le_partialReadLength s.platform addr.toNat (clamp16_le n.toInt)) s
    · cases e.symm.trans hu
      exact vreg_setV_self s d _
    · cases e.symm.trans hu
  · rw [enterFault_cix] at hcix
    omega

/-! ## The obligations -/

/-- Settles O9: every lane is the scalar's low byte, which is its signed value modulo 256. -/
theorem vbcastCopiesLowByte : Obligations.VbcastCopiesLowByte := by
  refine fun d a s => ⟨encode_eq_firstWordR rfl, fun n hn => ?_, fun hn => ?_⟩
  · refine givesVector_of_exec (exec_vbcast hn) fun j hj => ?_
    rw [byteLane_lanes _ hj]
    exact toNat_scalarByte n
  · exact raises_of_exec (exec_vbcast_unwritten hn)

/-- Settles O10: VLIT reads no register, so it always completes; with fewer than four words after it the decoder finds
it truncated, and the running block enters IllegalCommand. -/
theorem vlitWritesLiteral : Obligations.VlitWritesLiteral := by
  refine fun d w1 w2 w3 w4 s => ⟨encode_vlit_append d w1 w2 w3 w4, givesVector_of_exec rfl rfl, ?_⟩
  intro rest hlen hf hfetch
  rw [step_undecodable (phase_running_of_fetchWords hf hfetch)
    ((congrArg decode hfetch).trans (decode_vlit_truncated d hlen)), enterFault_eq_faultState]
  rfl

/-- Settles O12: past the two register reads the command is a load of the footprint of R70. -/
theorem vldpLoadsFirstLanes : Obligations.VldpLoadsFirstLanes := by
  refine fun d a b s => ⟨encode_eq_firstWordR rfl, fun addr n ha hb => ?_, fun h => ?_⟩
  · exact ⟨givesVector_of_loadLanes (le_partialFootprint s addr.toNat n.toInt) (exec_vldp ha hb),
      checksAccess_of_loadLanes (exec_vldp ha hb)⟩
  · exact raises_of_exec (exec_vldp_unwritten h)

/-- Settles O13: past the three register reads the command is a store of clamp16(n) lanes. -/
theorem vstpStoresFirstLanes : Obligations.VstpStoresFirstLanes := by
  refine fun a b c s => ⟨encode_eq_firstWordR rfl, fun val addr n ha hb hc => ?_, fun h => ?_⟩
  · exact ⟨storesLanes_of_storeLanes (exec_vstp ha hb hc), checksAccess_of_storeLanes (exec_vstp ha hb hc)⟩
  · exact raises_of_exec (exec_vstp_unwritten h)

/-- Settles O14: cutting at clamp16(n) and cutting at n part the sixteen lanes the same way. -/
theorem vcutZeroesHighLanes : Obligations.VcutZeroesHighLanes :=
  scalarOperandRule_of_exec (fun _ _ _ => rfl) (fun _ _ _ _ => rfl) fun p n _ hj =>
    (lane_cutLanes _ p hj).trans (if_congr (lt_clamp16_iff hj n.toInt) rfl rfl)

/-- Settles O15: the low four bits of the index are its value modulo 16, the low byte of the value its value modulo
256. -/
theorem vinsReplacesOneLane : Obligations.VinsReplacesOneLane := by
  refine fun d a b c s => ⟨encode_eq_firstWordR rfl, fun p m n ha hb hc => ?_, fun h => ?_⟩
  · refine givesVector_of_exec (exec_vins ha hb hc) fun j hj => ?_
    have hlane : byteLane (insertLane (laneIndex m) (scalarByte n) p) j =
        if j = laneIndex m then scalarByte n else byteLane p j := lane_insertLane _ _ p hj
    rw [hlane, ← laneIndex_eq_emod]
    split
    · next hindex =>
      rw [if_pos (by exact_mod_cast hindex)]
      exact toNat_scalarByte n
    · next hindex => rw [if_neg (by exact_mod_cast hindex)]
  · exact raises_of_exec (exec_vins_unwritten h)

/-- Settles O16: sign extension keeps the signed value of the lane. -/
theorem vextReadsOneLane : Obligations.VextReadsOneLane := by
  refine fun d a b s => ⟨encode_eq_firstWordR rfl, fun p m ha hb => ?_, fun h => ?_⟩
  · refine givesScalar_of_exec (exec_vext ha hb) ?_
    rw [BitVec.toInt_signExtend_of_le (by decide), ← laneIndex_eq_emod, Int.toNat_natCast]
    rfl
  · exact raises_of_exec (exec_vext_unwritten h)

/-- Settles O48: the load of R154 puts the n bytes in the low lanes of v[d] and leaves memory and the scalar registers
alone, so the store of R155 still finds its operands and its footprint, and writes those lanes out. -/
theorem partialLoadThenStoreCopies : Obligations.PartialLoadThenStoreCopies := by
  intro s d xa ya na x y n hw hx hy hn h0 h16 hread hwrite
  have hk : clampCount n.toInt = n.toNat := clampCount_eq_toNat h0 h16
  obtain ⟨-, hload, -⟩ := vldpLoadsFirstLanes d xa na s
  obtain ⟨hgives, -⟩ := hload x n hx hn
  rw [hk] at hgives
  obtain ⟨t, r, hexec, hr, hlanes, -, -, hxreg, -, -, -, hplatform⟩ := hgives hread
  have hmem : t.mem = s.mem := mem_exec_of_not_writes rfl hexec
  obtain ⟨-, hstore, -⟩ := vstpStoresFirstLanes d ya na t
  obtain ⟨hstores, -⟩ := hstore r y n hr (hxreg ya ▸ hy) (hxreg na ▸ hn)
  rw [hk, hmem] at hstores
  obtain ⟨u, hexec', hbytes, -⟩ := hstores hw (by rwa [Accessible, hplatform])
  refine ⟨t, u, hexec, hexec', fun c => ?_⟩
  rw [hbytes c, hmem]
  split
  · next hin =>
    have hlt : c - y.toNat < n.toNat := by omega
    have hle : clampCount n.toInt ≤ 16 := clamp16_eq_clampCount n.toInt ▸ clamp16_le n.toInt
    rw [hlanes (c - y.toNat) (by omega), if_pos hlt]
  · rfl

/-- Settles O49: the value a completed load writes does not mention the platform. -/
theorem overreadDoesNotChangeTheValue : Obligations.OverreadDoesNotChangeTheValue := by
  intro s t u d a b flag ht hu htcix hucix
  obtain ⟨addr, n, ha, hb, hvalue⟩ := vreg_of_completed_vldp ht htcix
  obtain ⟨addr', n', ha', hb', hvalue'⟩ := vreg_of_completed_vldp hu hucix
  cases ha.symm.trans ha'
  cases hb.symm.trans hb'
  exact hvalue.trans hvalue'.symm

/-- Settles O11: VMOV is the unary shape over the identity. -/
theorem vmovCopiesRegister : Obligations.VmovCopiesRegister :=
  unaryRule_of_exec (fun _ _ => rfl) (fun _ _ _ => rfl) fun _ => rfl

end Sys2Proof.Machine

/-! # Lane arithmetic (42_lane_arith.md)

What the lane functions compute in the integers and bits of the statements; the rule of the shift shape; VEQ, which has
a shape of its own; and the five statements about these commands. -/

namespace Sys2Proof.Machine

open Sys2Proof.Claims

variable {s : State}

/-! ## Vectors lane by lane -/

theorem laneWise1_mapLanes {f : Lane → Lane} {good : Lane → Lane → Prop} (h : ∀ p, good p (f p)) (p : Vec) :
    LaneWise1 good p (mapLanes f p) := by
  intro i hi
  have hlane : byteLane (mapLanes f p) i = f (byteLane p i) := lane_mapLanes f p hi
  rw [hlane]
  exact h _

theorem laneWise2_zipLanes {f : Lane → Lane → Lane} {good : Lane → Lane → Lane → Prop}
    (h : ∀ p q, good p q (f p q)) (p q : Vec) : LaneWise2 good p q (zipLanes f p q) := by
  intro i hi
  have hlane : byteLane (zipLanes f p q) i = f (byteLane p i) (byteLane q i) := lane_zipLanes f p q hi
  rw [hlane]
  exact h _ _

/-- The XOR of two vectors is zero only where they agree in every lane (42_lane_arith.md R184). -/
theorem isEqual_iff (p q : Vec) : isEqual p q = true ↔ ∀ i < 16, byteLane p i = byteLane q i := by
  have hxor : isEqual p q = true ↔ p = q := by rw [isEqual, beq_iff_eq]; exact BitVec.xor_eq_zero_iff
  rw [hxor]
  constructor
  · rintro rfl i -
    rfl
  · exact ext_lanes

/-! ## The lane functions -/

/-- The model's `wrap8` is that of the statements (00_scope.md R12). -/
theorem isWrap8_wrap8 (z : Int) : IsWrap8 z (wrap8 z) := by
  have hnonneg : 0 ≤ z % 256 := Int.emod_nonneg z (by decide)
  rw [IsWrap8, wrap8, BitVec.toNat_ofInt]
  exact Int.toNat_of_nonneg hnonneg

theorem laneShl_eq_shiftLeft (c : Nat) (p : Lane) : laneShl c p = p <<< c := by
  apply BitVec.eq_of_toNat_eq
  rw [laneShl, BitVec.toNat_ofNat, BitVec.toNat_shiftLeft, Nat.shiftLeft_eq, Nat.mod_mod]

theorem getLsbD_laneShl (c : Nat) (p : Lane) {j : Nat} (h : j < 8) :
    (laneShl c p).getLsbD j = (decide (c ≤ j) && p.getLsbD (j - c)) := by
  rw [laneShl_eq_shiftLeft, BitVec.getLsbD_shiftLeft, decide_eq_true h, Bool.true_and, ← decide_not]
  simp only [Nat.not_lt]

/-- Floor division by a power of two is the arithmetic shift, whose result always fits the lane. -/
theorem laneSar_eq_sshiftRight (c : Nat) (p : Lane) : laneSar c p = p.sshiftRight c := by
  have hfloor : Int.fdiv p.toInt (2 ^ c) = p.toInt >>> c := by
    rw [Int.fdiv_eq_ediv_of_nonneg _ (by positivity), Int.shiftRight_eq_div_pow, Nat.cast_pow, Nat.cast_ofNat]
  rw [laneSar, hfloor]
  rfl

theorem toInt_laneSar (c : Nat) (p : Lane) : (laneSar c p).toInt = p.toInt / 2 ^ c := by
  rw [laneSar_eq_sshiftRight, BitVec.toInt_sshiftRight, Int.shiftRight_eq_div_pow, Nat.cast_pow, Nat.cast_ofNat]

theorem laneSar_floor_bounds (c : Nat) (p : Lane) :
    (laneSar c p).toInt * 2 ^ c ≤ p.toInt ∧ p.toInt < ((laneSar c p).toInt + 1) * 2 ^ c := by
  have hpos : (0 : Int) < 2 ^ c := by positivity
  rw [toInt_laneSar]
  exact ⟨Int.ediv_mul_le _ hpos.ne', Int.lt_ediv_add_one_mul_self _ hpos⟩

/-! ## The rule of the shifts, and VEQ -/

theorem vecShift_shiftCountRange {f : Nat → Vec → Vec} {d a : VReg} {b : XReg} {p : Vec} {n : Scalar}
    (hp : vreg s a = some p) (hn : xreg s b = some n) (hrange : n.toInt < 0 ∨ 7 < n.toInt) :
    vecShift f d a b s = .error ⟨.shiftCountRange, 0⟩ := by
  simp only [vecShift, readV_ok hp, readX_ok hn, shiftCount_error hrange, except_ok_bind, except_error_bind]

theorem shiftRule_of_exec {op : BitVec 6} {mk : VReg → VReg → XReg → Instr} {f : Nat → Lane → Lane}
    {good : Nat → Lane → Lane → Prop} (henc : ∀ d a b, encode (mk d a b) = [wordR op.toNat d a b 0])
    (hexec : ∀ d a b s, exec (mk d a b) s = complete 1 s (vecShift (fun c p => mapLanes (f c) p) d a b s))
    (hgood : ∀ c p, good c p (f c p)) : ShiftRule op mk good := by
  refine fun d a b s => ⟨encode_eq_firstWordR (henc d a b), fun p n hp hn => ⟨?_, fun hrange => ?_⟩, fun hab => ?_⟩
  · rintro ⟨h0, h7⟩
    exact givesVector_of_exec (by rw [hexec, vecShift_ok hp hn h0 h7]) (laneWise1_mapLanes (hgood _) p)
  · exact raises_of_exec (r := ⟨.shiftCountRange, 0⟩) (by rw [hexec, vecShift_shiftCountRange hp hn hrange])
  · exact raises_of_exec (r := ⟨.unwrittenRegister, 0⟩) (by rw [hexec, vecShift, readV_readX_unwritten _ hab])

theorem exec_veq {d : XReg} {a b : VReg} {p q : Vec} (ha : vreg s a = some p) (hb : vreg s b = some q) :
    exec (.veq d a b) s = complete 1 s (.ok (setX s d (boolScalar (isEqual p q)))) := by
  simp only [exec, execVeq, readV_ok ha, readV_ok hb, except_ok_bind]; rfl

theorem exec_veq_unwritten {d : XReg} {a b : VReg} (h : vreg s a = none ∨ vreg s b = none) :
    exec (.veq d a b) s = complete 1 s (.error ⟨.unwrittenRegister, 0⟩) :=
  congrArg (complete 1 s) <| readV_bind_unwritten <| h.imp_right fun hb _ => readV_bind_unwritten (.inl hb)

/-! ## The obligations -/

/-- Settles O17: each of the three is the binary shape over lanes, and ends in the same `wrap8`. -/
theorem wrappingLaneArithmetic : Obligations.WrappingLaneArithmetic :=
  ⟨binaryRule_of_exec (fun _ _ _ => rfl) (fun _ _ _ _ => rfl) (laneWise2_zipLanes fun _ _ => isWrap8_wrap8 _),
    binaryRule_of_exec (fun _ _ _ => rfl) (fun _ _ _ _ => rfl) (laneWise2_zipLanes fun _ _ => isWrap8_wrap8 _),
    binaryRule_of_exec (fun _ _ _ => rfl) (fun _ _ _ _ => rfl) (laneWise2_zipLanes fun _ _ => isWrap8_wrap8 _)⟩

/-- Settles O18: VNEG is the unary shape over lanes. -/
theorem vnegNegatesLanes : Obligations.VnegNegatesLanes :=
  unaryRule_of_exec (fun _ _ => rfl) (fun _ _ _ => rfl) (laneWise1_mapLanes fun _ => isWrap8_wrap8 _)

/-- Settles O19: the XOR test decides whether all sixteen lanes agree, so one lane that differs makes it false. -/
theorem veqComparesWholeVectors : Obligations.VeqComparesWholeVectors := by
  refine fun d a b s => ⟨encode_eq_firstWordR rfl, fun p q hp hq => ?_, fun hab => ?_⟩
  · refine givesScalar_of_exec (exec_veq hp hq) ⟨fun h => ?_, ?_⟩
    · exact boolScalar_of_eq_true ((isEqual_iff p q).mpr h)
    · rintro ⟨i, hi, hne⟩
      exact boolScalar_of_eq_false (Bool.eq_false_iff.mpr fun h => hne ((isEqual_iff p q).mp h i hi))
  · exact raises_of_exec (exec_veq_unwritten hab)

/-- Settles O20: shifting within the lane loses the bits that leave it. -/
theorem vshlShiftsLanesLeft : Obligations.VshlShiftsLanesLeft :=
  shiftRule_of_exec (fun _ _ _ => rfl) (fun _ _ _ _ => rfl) fun c p _ hj => getLsbD_laneShl c p hj

/-- Settles O21: the arithmetic shift of a lane is the floor of its quotient. -/
theorem vsarShiftsLanesRight : Obligations.VsarShiftsLanesRight :=
  shiftRule_of_exec (fun _ _ _ => rfl) (fun _ _ _ _ => rfl) laneSar_floor_bounds

end Sys2Proof.Machine

/-! # Boolean lanes, select and conditional arithmetic (43_boolean_select.md)

The masks of the statements and those the model accepts; what a true or a false mask lane makes of a select; the rule of
the masked shape; and the six statements about these commands. -/

namespace Sys2Proof.Machine

open Sys2Proof.Claims

variable {s : State}

/-! ## The first word of format I -/

/-- The first word written field by field is the encoder's (30_encoding.md R92). -/
theorem wordI_eq_firstWordI (op : BitVec 6) (d : Fin 16) (imm : BitVec 16) :
    wordI op.toNat d imm = firstWordI op d imm := by
  apply BitVec.eq_of_toNat_eq
  have hword : (firstWordI op d imm).toNat = ((op.toNat * 2 ^ 4 + d.val) * 2 ^ 6 + 0) * 2 ^ 16 + imm.toNat := by
    unfold firstWordI
    change BitVec.toNat (w := 6 + 4 + 6 + 16) _ = _
    simp only [toNat_append_eq, BitVec.toNat_ofFin, BitVec.toNat_zero]
  rw [toNat_wordI op.isLt, hword]
  omega

/-! ## Boolean lane vectors (43_boolean_select.md R211) -/

/-- The model's mask check accepts the masks of the statements. -/
theorem isBoolVec_iff_booleanVector (m : Vec) : isBoolVec m = true ↔ BooleanVector m := isBoolVec_iff m

theorem isBoolVec_eq_false_iff (m : Vec) : isBoolVec m = false ↔ ¬ BooleanVector m := by
  rw [← Bool.not_eq_true, isBoolVec_iff_booleanVector]

theorem boolLane_decide (c : Prop) [Decidable c] : boolLane (decide c) = if c then 0xFF else 0x00 := by
  simp only [boolLane, decide_eq_true_eq]

theorem booleanVector_of_boolLanes {r : Vec} (h : ∀ i < 16, ∃ b, byteLane r i = boolLane b) : BooleanVector r := by
  intro i hi
  obtain ⟨b, hb⟩ := h i hi
  cases b
  · exact .inl hb
  · exact .inr hb

theorem booleanVector_boolVec (bits : BitVec 16) : BooleanVector (boolVec bits) :=
  booleanVector_of_boolLanes fun i hi => ⟨bits.getLsbD i, lane_boolVec bits hi⟩

/-- Lanes made of a truth value each are a mask, whatever is compared (43_boolean_select.md R216, R217). -/
theorem booleanVector_zipLanes {f : Lane → Lane → Lane} (h : ∀ p q, ∃ b, f p q = boolLane b) (p q : Vec) :
    BooleanVector (zipLanes f p q) := by
  refine booleanVector_of_boolLanes fun i hi => ?_
  obtain ⟨b, hb⟩ := h (lane p i) (lane q i)
  exact ⟨b, (lane_zipLanes f p q hi).trans hb⟩

/-! ## The comparators -/

theorem laneCmpEq_eq_ite (p q : Lane) : laneCmpEq p q = if p = q then 0xFF else 0x00 := boolLane_decide (p = q)

theorem laneCmpGt_eq_ite (p q : Lane) : laneCmpGt p q = if q.toInt < p.toInt then 0xFF else 0x00 :=
  boolLane_decide (q.toInt < p.toInt)

theorem booleanVector_vcmpeq (p q : Vec) : BooleanVector (zipLanes laneCmpEq p q) :=
  booleanVector_zipLanes (fun p q => ⟨p == q, rfl⟩) p q

theorem booleanVector_vcmpgt (p q : Vec) : BooleanVector (zipLanes laneCmpGt p q) :=
  booleanVector_zipLanes (fun p q => ⟨decide (q.toInt < p.toInt), rfl⟩) p q

/-! ## What a mask lane makes of the lanes it governs -/

theorem trueLane_eq_allOnes : (0xFF : Lane) = BitVec.allOnes 8 := rfl

theorem falseLane_eq_zero : (0x00 : Lane) = 0#8 := rfl

section MaskLane

variable {p q m : Vec} {i : Nat}

theorem lane_selectBits (hi : i < 16) :
    lane (selectBits m p q) i = (lane m i &&& lane p i) ||| (~~~lane m i &&& lane q i) := by
  rw [selectBits, lane_or, lane_and, lane_and, lane_not m hi]

theorem lane_selectBits_true (hi : i < 16) (hm : lane m i = 0xFF) : lane (selectBits m p q) i = lane p i := by
  rw [lane_selectBits hi, hm, trueLane_eq_allOnes, BitVec.allOnes_and, BitVec.not_allOnes, BitVec.zero_and,
    BitVec.or_zero]

theorem lane_selectBits_false (hi : i < 16) (hm : lane m i = 0x00) : lane (selectBits m p q) i = lane q i := by
  rw [lane_selectBits hi, hm, falseLane_eq_zero, BitVec.zero_and, BitVec.not_zero, BitVec.allOnes_and, BitVec.zero_or]

theorem lane_and_mask_true (hm : lane m i = 0xFF) : lane (q &&& m) i = lane q i := by
  rw [lane_and, hm, trueLane_eq_allOnes, BitVec.and_allOnes]

theorem lane_and_mask_false (hm : lane m i = 0x00) : lane (q &&& m) i = 0#8 := by
  rw [lane_and, hm, falseLane_eq_zero, BitVec.and_zero]

/-- Conditional arithmetic by masking the second operand: the lane is `f` of the two where the mask is true. -/
theorem lane_zipLanes_and_true (f : Lane → Lane → Lane) (hi : i < 16) (hm : lane m i = 0xFF) :
    lane (zipLanes f p (q &&& m)) i = f (lane p i) (lane q i) := by
  rw [lane_zipLanes _ _ _ hi, lane_and_mask_true hm]

/-- Where the mask is false the second operand is 0, so a function with 0 as its right unit leaves the first. -/
theorem lane_zipLanes_and_false {f : Lane → Lane → Lane} (hf : ∀ x, f x 0#8 = x) (hi : i < 16)
    (hm : lane m i = 0x00) : lane (zipLanes f p (q &&& m)) i = lane p i := by
  rw [lane_zipLanes _ _ _ hi, lane_and_mask_false hm, hf]

end MaskLane

theorem wrap8_toInt (x : Lane) : wrap8 x.toInt = x := BitVec.ofInt_toInt

theorem laneAdd_zero (x : Lane) : laneAdd x 0#8 = x := by
  rw [laneAdd, BitVec.toInt_zero, add_zero, wrap8_toInt]

theorem laneSub_zero (x : Lane) : laneSub x 0#8 = x := by
  rw [laneSub, BitVec.toInt_zero, sub_zero, wrap8_toInt]

/-! ## The rule of the masked shape -/

theorem vecMasked_maskNotBoolean {f : Vec → Vec → Vec → Vec} {d a b c : VReg} {p q m : Vec} (hp : vreg s a = some p)
    (hq : vreg s b = some q) (hm : vreg s c = some m) (hbad : ¬ BooleanVector m) :
    vecMasked f d a b c s = .error ⟨.maskNotBoolean, 0⟩ := by
  have hmask := requireMask_error ((isBoolVec_eq_false_iff m).mpr hbad)
  simp only [vecMasked, readV_ok hp, readV_ok hq, readV_ok hm, hmask, except_ok_bind, except_error_bind]

/-- All three registers are read before the mask is checked (60_exceptions.md R289). -/
theorem vecMasked_unwritten {f : Vec → Vec → Vec → Vec} {d a b c : VReg}
    (h : vreg s a = none ∨ vreg s b = none ∨ vreg s c = none) :
    vecMasked f d a b c s = .error ⟨.unwrittenRegister, 0⟩ :=
  readV_bind_unwritten <| h.imp_right fun hbc _ => readV_bind_unwritten <| hbc.imp_right fun hc _ =>
    readV_bind_unwritten (.inl hc)

/-- A lane of a boolean lane vector that is not 0xFF is 0x00, so a true and a false mask lane are the only cases. -/
theorem maskedRule_of_exec {op : BitVec 6} {mk : VReg → VReg → VReg → VReg → Instr} {f : Vec → Vec → Vec → Vec}
    {onTrue onFalse : Lane → Lane → Lane → Prop} (henc : ∀ d a b c, encode (mk d a b c) = [wordR op.toNat d a b c])
    (hexec : ∀ d a b c s, exec (mk d a b c) s = complete 1 s (vecMasked f d a b c s))
    (htrue : ∀ p q m, ∀ i < 16, lane m i = 0xFF → onTrue (lane p i) (lane q i) (lane (f p q m) i))
    (hfalse : ∀ p q m, ∀ i < 16, lane m i = 0x00 → onFalse (lane p i) (lane q i) (lane (f p q m) i)) :
    MaskedRule op mk fun m p q r => (m → onTrue p q r) ∧ (¬ m → onFalse p q r) := by
  refine fun d a b c s =>
    ⟨encode_eq_firstWordR (henc d a b c), fun p q m hp hq hm => ⟨fun hbool => ?_, fun hbad => ?_⟩, fun habc => ?_⟩
  · have hok := vecMasked_ok (f := f) (d := d) hp hq hm ((isBoolVec_iff_booleanVector m).mpr hbool)
    exact givesVector_of_exec (by rw [hexec, hok]) fun i hi =>
      ⟨htrue p q m i hi, fun hne => hfalse p q m i hi ((hbool i hi).resolve_right hne)⟩
  · exact raises_of_exec (r := ⟨.maskNotBoolean, 0⟩) (by rw [hexec, vecMasked_maskNotBoolean hp hq hm hbad])
  · exact raises_of_exec (r := ⟨.unwrittenRegister, 0⟩) (by rw [hexec, vecMasked_unwritten habc])

/-! ## A mask that one command writes and the next one uses -/

theorem exec_vsel {d a b c : VReg} {p q m : Vec} (hp : vreg s a = some p) (hq : vreg s b = some q)
    (hm : vreg s c = some m) (hbool : BooleanVector m) :
    exec (.vsel d a b c) s = .next (advance (setV s d (selectBits m p q)) 1) := by
  rw [exec, execVsel, vecMasked_ok hp hq hm ((isBoolVec_iff_booleanVector m).mpr hbool), complete_ok]

/-- Writing the mask to v[m] leaves the two data registers as they were, so VSEL finds all three written. -/
theorem vsel_completes_after_mask {i : Instr} {m d p q : VReg} {mask vp vq : Vec}
    (hexec : exec i s = complete 1 s (.ok (setV s m mask))) (hmask : BooleanVector mask)
    (hpm : p ≠ m) (hqm : q ≠ m) (hp : vreg s p = some vp) (hq : vreg s q = some vq) :
    ∃ t u, exec i s = .next t ∧ exec (.vsel d p q m) t = .next u ∧ u.cix = s.cix + 2 := by
  rw [complete_ok] at hexec
  refine ⟨_, _, hexec, exec_vsel (p := vp) (q := vq) (m := mask) ?_ ?_ ?_ hmask, rfl⟩
  · rw [vreg_advance, vreg_setV_ne s mask hpm, hp]
  · rw [vreg_advance, vreg_setV_ne s mask hqm, hq]
  · rw [vreg_advance, vreg_setV_self]

/-! ## The obligations -/

/-- Settles O22: VBOOLS reads no register, so it always completes, and each lane it makes is a truth value. -/
theorem vboolsBuildsMask : Obligations.VboolsBuildsMask :=
  fun d imm _ => ⟨congrArg (fun w => [w]) (wordI_eq_firstWordI 0x05 d imm),
    givesVector_of_exec rfl ⟨booleanVector_boolVec imm, fun _ hi => lane_boolVec imm hi⟩⟩

/-- Settles O23: a true mask lane passes the first vector's lane through the select, a false one the second's. -/
theorem vselSelectsLanes : Obligations.VselSelectsLanes :=
  maskedRule_of_exec (fun _ _ _ _ => rfl) (fun _ _ _ _ _ => rfl)
    (fun _ _ _ _ hi hm => lane_selectBits_true hi hm) (fun _ _ _ _ hi hm => lane_selectBits_false hi hm)

/-- Settles O24: a false mask lane clears the second operand, and adding or subtracting 0 leaves the first. -/
theorem conditionalAddAndSubtract : Obligations.ConditionalAddAndSubtract := by
  constructor
  · refine maskedRule_of_exec (fun _ _ _ _ => rfl) (fun _ _ _ _ _ => rfl) (fun p q m i hi hm => ?_)
      (fun p q m i hi hm => lane_zipLanes_and_false laneAdd_zero hi hm)
    rw [lane_zipLanes_and_true laneAdd hi hm]
    exact isWrap8_wrap8 _
  · refine maskedRule_of_exec (fun _ _ _ _ => rfl) (fun _ _ _ _ _ => rfl) (fun p q m i hi hm => ?_)
      (fun p q m i hi hm => lane_zipLanes_and_false laneSub_zero hi hm)
    rw [lane_zipLanes_and_true laneSub hi hm]
    exact isWrap8_wrap8 _

/-- Settles O25: the select takes the product where the mask is true and, unlike a masked operand, the first vector's
own lane where it is false. -/
theorem conditionalMultiply : Obligations.ConditionalMultiply := by
  refine maskedRule_of_exec (fun _ _ _ _ => rfl) (fun _ _ _ _ _ => rfl) (fun p q m i hi hm => ?_)
    (fun p q m i hi hm => lane_selectBits_false hi hm)
  rw [lane_selectBits_true hi hm, lane_zipLanes laneMul p q hi]
  exact isWrap8_wrap8 _

/-- Settles O26: both are the binary shape over lanes that are truth values. -/
theorem comparatorsBuildMasks : Obligations.ComparatorsBuildMasks :=
  ⟨binaryRule_of_exec (fun _ _ _ => rfl) (fun _ _ _ _ => rfl) fun p q =>
      ⟨booleanVector_vcmpeq p q, laneWise2_zipLanes (f := laneCmpEq) laneCmpEq_eq_ite p q⟩,
    binaryRule_of_exec (fun _ _ _ => rfl) (fun _ _ _ _ => rfl) fun p q =>
      ⟨booleanVector_vcmpgt p q, laneWise2_zipLanes (f := laneCmpGt) laneCmpGt_eq_ite p q⟩⟩

/-- Settles O51: the comparators complete with a boolean lane vector, which is all that VSEL asks of its mask. -/
theorem comparatorMasksAreAccepted : Obligations.ComparatorMasksAreAccepted := by
  intro s m a b d p q va vb vp vq ha hb hpm hqm hp hq
  have heq : exec (.vcmpeq m a b) s = complete 1 s (.ok (setV s m (zipLanes laneCmpEq va vb))) := by
    rw [exec, execVcmpeq, vecBinary_ok ha hb]
  have hgt : exec (.vcmpgt m a b) s = complete 1 s (.ok (setV s m (zipLanes laneCmpGt va vb))) := by
    rw [exec, execVcmpgt, vecBinary_ok ha hb]
  exact ⟨vsel_completes_after_mask heq (booleanVector_vcmpeq va vb) hpm hqm hp hq,
    vsel_completes_after_mask hgt (booleanVector_vcmpgt va vb) hpm hqm hp hq⟩

end Sys2Proof.Machine

/-! # Horizontal sums, saturation, minimum and maximum, rotation (44_reduce_saturate.md)

The sum of the lanes and its range; what the saturating, comparing and rotating lane functions compute in the integers
and bits of the statements; and the eight statements about these commands. -/

namespace Sys2Proof.Machine

open Sys2Proof.Claims

variable {s : State}

/-! ## The sum of the lanes -/

/-- The model adds up the lanes of a list, the statements those of a range. -/
theorem laneSum_eq_laneTotal (p : Vec) : laneSum p = laneTotal p := rfl

theorem laneTotal_bounds (p : Vec) : -2048 ≤ laneTotal p ∧ laneTotal p ≤ 2032 := by
  have hlow : ∀ i ∈ Finset.range 16, (-128 : Int) ≤ (byteLane p i).toInt := fun i _ => BitVec.le_toInt _
  have hhigh : ∀ i ∈ Finset.range 16, (byteLane p i).toInt ≤ 127 := fun i _ => BitVec.toInt_le
  exact ⟨Finset.card_nsmul_le_sum _ _ _ hlow, Finset.sum_le_card_nsmul _ _ _ hhigh⟩

/-- Sign extension keeps the wrapped sum, an 8-bit number (44_reduce_saturate.md R240). -/
theorem toInt_signExtend_wrap8 (z : Int) :
    ((wrap8 z).signExtend 64).toInt % 256 = z % 256 ∧
      -128 ≤ ((wrap8 z).signExtend 64).toInt ∧ ((wrap8 z).signExtend 64).toInt ≤ 127 := by
  rw [BitVec.toInt_signExtend_of_le (by decide)]
  refine ⟨?_, BitVec.le_toInt _, BitVec.toInt_le⟩
  rw [toInt_wrap8]
  exact Int.bmod_emod

/-- Sixteen bits hold the sum of sixteen lanes, so nothing wraps (44_reduce_saturate.md R241). -/
theorem toInt_signExtend_laneSum (p : Vec) :
    ((BitVec.ofInt 16 (laneSum p)).signExtend 64).toInt = laneTotal p := by
  obtain ⟨hlow, hhigh⟩ := laneTotal_bounds p
  rw [BitVec.toInt_signExtend_of_le (by decide), BitVec.toInt_ofInt, laneSum_eq_laneTotal]
  exact Int.bmod_eq_of_le (by omega) (by omega)

/-! ## The lane functions -/

/-- The model's `sat8` is that of the statements (00_scope.md R12). -/
theorem isSat8_sat8 (z : Int) : IsSat8 z (sat8 z) := by
  rw [IsSat8, toInt_sat8]
  split
  · omega
  · split <;> omega

theorem toInt_laneMin (p q : Lane) : (laneMin p q).toInt = min p.toInt q.toInt := by
  rw [laneMin, apply_ite BitVec.toInt, min_def]

theorem toInt_laneMax (p q : Lane) : (laneMax p q).toInt = max p.toInt q.toInt := by
  rw [laneMax, apply_ite BitVec.toInt, max_comm, max_def]

/-- The minimum and the maximum are the two operands, in one order or the other. -/
theorem laneAdd_laneMin_laneMax (p q : Lane) : laneAdd (laneMin p q) (laneMax p q) = laneAdd p q := by
  rw [laneAdd, toInt_laneMin, toInt_laneMax, min_add_max, laneAdd]

theorem zipLanes_laneAdd_min_max (p q : Vec) :
    zipLanes laneAdd (zipLanes laneMin p q) (zipLanes laneMax p q) = zipLanes laneAdd p q := by
  refine ext_lanes fun i hi => ?_
  simp only [lane_zipLanes _ _ _ hi, laneAdd_laneMin_laneMax]

/-! ## Rotation -/

theorem rotateAmount_eq_emod (n : Scalar) : (rotateAmount n : Int) = n.toInt % 8 :=
  toNat_lowBits n (by decide)

/-- The bits that leave the lane at the top come in at the bottom: below `r` stand the top `r` bits, and from `r` on
those that were shifted up. -/
theorem getLsbD_laneRotl {r j : Nat} (hr : r < 8) (hj : j < 8) (p : Lane) :
    (laneRotl r p).getLsbD j = if j < r then p.getLsbD (j + (8 - r)) else p.getLsbD (j - r) := by
  have hwrapped : p.toNat / 2 ^ (8 - r) < 2 ^ r := by
    rw [Nat.div_lt_iff_lt_mul (by positivity), ← pow_add, Nat.add_sub_cancel' hr.le]
    exact p.isLt
  have hbit : (p.toNat * 2 ^ r + p.toNat / 2 ^ (8 - r)).testBit j =
      if j < r then (p.toNat / 2 ^ (8 - r)).testBit j else p.toNat.testBit (j - r) := by
    rw [Nat.mul_comm, Nat.testBit_two_pow_mul_add _ hwrapped]
  have hbits : 256 = 2 ^ 8 := rfl
  rw [laneRotl, BitVec.getLsbD_ofNat, hbits, Nat.testBit_mod_two_pow, hbit, Nat.testBit_div_two_pow,
    BitVec.testBit_toNat, BitVec.testBit_toNat, decide_eq_true hj, Bool.true_and, Bool.true_and]

/-- A rotation by the scalar `n`, of any sign, moves each bit up by `n` places round the lane (R248). -/
theorem getLsbD_laneRotl_rotateAmount (n : Scalar) (p : Lane) {j : Nat} (hj : j < 8) :
    (laneRotl (rotateAmount n) p).getLsbD j = p.getLsbD (((j : Int) - n.toInt) % 8).toNat := by
  have hamount := rotateAmount_eq_emod n
  have hr := rotateAmount_lt n
  rw [getLsbD_laneRotl hr hj]
  split
  · next hwraps =>
    have hindex : (((j : Int) - n.toInt) % 8).toNat = j + (8 - rotateAmount n) := by omega
    rw [hindex]
  · next hstays =>
    have hindex : (((j : Int) - n.toInt) % 8).toNat = j - rotateAmount n := by omega
    rw [hindex]

/-- Two vectors that agree in every bit of every lane are equal. -/
theorem ext_laneBits {p q : Vec} (h : ∀ i < 16, ∀ j < 8, (byteLane p i).getLsbD j = (byteLane q i).getLsbD j) :
    p = q :=
  ext_lanes fun i hi => BitVec.eq_of_getLsbD_eq fun j hj => h i hi j hj

/-! ## A value that one command writes and the next one uses -/

/-- The binary shape on written registers: v[d] gets the result, and the other vector registers stay as they were. -/
theorem exec_writes_of_vecBinary {i : Instr} {f : Vec → Vec → Vec} {d a b : VReg} {p q : Vec}
    (hexec : exec i s = complete 1 s (vecBinary f d a b s)) (hp : vreg s a = some p) (hq : vreg s b = some q) :
    ∃ t, exec i s = .next t ∧ vreg t d = some (f p q) ∧ ∀ r, r ≠ d → vreg t r = vreg s r := by
  rw [vecBinary_ok hp hq, complete_ok] at hexec
  exact ⟨_, hexec, vreg_setV_self s d (f p q), fun _ hr => vreg_setV_ne s (f p q) hr⟩

/-! ## The obligations -/

/-- Settles O27: the wrapped sum is congruent to the exact one and is an 8-bit number. -/
theorem vhaddWritesWrappedSum : Obligations.VhaddWritesWrappedSum := by
  refine reductionRule_of_exec (fun _ _ => rfl) (fun _ _ _ => rfl) fun p => ?_
  rw [← laneSum_eq_laneTotal]
  exact toInt_signExtend_wrap8 (laneSum p)

/-- Settles O28: the sum lies within sixteen bits, so its sign extension is the exact sum. -/
theorem vhaddxWritesExactSum : Obligations.VhaddxWritesExactSum := by
  refine reductionRule_of_exec (fun _ _ => rfl) (fun _ _ _ => rfl) fun p => ?_
  rw [toInt_signExtend_laneSum]
  exact ⟨rfl, laneTotal_bounds p⟩

/-- Settles O29: both are the binary shape over lanes, and end in the same `sat8`. -/
theorem saturatingLaneArithmetic : Obligations.SaturatingLaneArithmetic :=
  ⟨binaryRule_of_exec (fun _ _ _ => rfl) (fun _ _ _ _ => rfl) (laneWise2_zipLanes fun _ _ => isSat8_sat8 _),
    binaryRule_of_exec (fun _ _ _ => rfl) (fun _ _ _ _ => rfl) (laneWise2_zipLanes fun _ _ => isSat8_sat8 _)⟩

/-- Settles O30: both are the binary shape over lanes, whose choice is the order of the signed values. -/
theorem laneMinimumAndMaximum : Obligations.LaneMinimumAndMaximum :=
  ⟨binaryRule_of_exec (fun _ _ _ => rfl) (fun _ _ _ _ => rfl) (laneWise2_zipLanes toInt_laneMin),
    binaryRule_of_exec (fun _ _ _ => rfl) (fun _ _ _ _ => rfl) (laneWise2_zipLanes toInt_laneMax)⟩

/-- Settles O31: the exact absolute value, at most 128, goes through `wrap8` in VABS and through `sat8` in VABSS. -/
theorem laneAbsoluteValues : Obligations.LaneAbsoluteValues :=
  ⟨unaryRule_of_exec (fun _ _ => rfl) (fun _ _ _ => rfl) (laneWise1_mapLanes fun _ => isWrap8_wrap8 _),
    unaryRule_of_exec (fun _ _ => rfl) (fun _ _ _ => rfl) (laneWise1_mapLanes fun _ => isSat8_sat8 _)⟩

/-- Settles O32: the low three bits of the count are its value modulo 8, and no count is refused. -/
theorem vrotlRotatesLanes : Obligations.VrotlRotatesLanes := by
  refine scalarOperandRule_of_exec (fun _ _ _ => rfl) (fun _ _ _ _ => rfl) fun p n i hi j hj => ?_
  have hlane : byteLane (mapLanes (laneRotl (rotateAmount n)) p) i = laneRotl (rotateAmount n) (byteLane p i) :=
    lane_mapLanes _ p hi
  rw [hlane]
  exact getLsbD_laneRotl_rotateAmount n _ hj

/-- Settles O52: v[lo] and v[hi] hold the minimum and the maximum when VADD reads them, and lane by lane their sum is
that of the operands. -/
theorem minimumPlusMaximumIsSum : Obligations.MinimumPlusMaximumIsSum := by
  intro s a b lo hi d e p q hloa hlob hhilo hp hq
  obtain ⟨t, hmin, hlo, hkept⟩ := exec_writes_of_vecBinary (i := .vmin lo a b) rfl hp hq
  have hpt : vreg t a = some p := (hkept a hloa.symm).trans hp
  have hqt : vreg t b = some q := (hkept b hlob.symm).trans hq
  obtain ⟨u, hmax, hhi, hkept'⟩ := exec_writes_of_vecBinary (i := .vmax hi a b) rfl hpt hqt
  have hlou : vreg u lo = some (zipLanes laneMin p q) := (hkept' lo hhilo.symm).trans hlo
  obtain ⟨w, hsum, hd, -⟩ := exec_writes_of_vecBinary (i := .vadd d lo hi) rfl hlou hhi
  obtain ⟨z, hadd, he, -⟩ := exec_writes_of_vecBinary (i := .vadd e a b) rfl hp hq
  rw [zipLanes_laneAdd_min_max] at hd
  exact ⟨t, u, w, z, _, hmin, hmax, hsum, hd, hadd, he⟩

/-- Settles O53: a bit moves up by n and then by 8 - n places, once round the lane, whatever the registers are. -/
theorem rotateThereAndBack : Obligations.RotateThereAndBack := by
  intro s a d e k k' n n' p hp hn hn' _ _ hsum
  obtain ⟨-, hrotate, -⟩ := vrotlRotatesLanes d a k s
  obtain ⟨t, r, hexec, hr, hbits, -, -, hxreg, -⟩ := hrotate p n hp hn
  obtain ⟨-, hback, -⟩ := vrotlRotatesLanes e d k' t
  obtain ⟨u, r', hexec', hr', hbits', -⟩ := hback r n' hr ((hxreg k').trans hn')
  have hround : r' = p := by
    refine ext_laneBits fun i hi j hj => ?_
    have hj' : (((j : Int) - n'.toInt) % 8).toNat < 8 := by omega
    have hindex : (((((j : Int) - n'.toInt) % 8).toNat - n.toInt) % 8).toNat = j := by omega
    rw [hbits' i hi j hj, hbits i hi _ hj', hindex]
  exact ⟨t, u, hexec, hexec', hround ▸ hr'⟩

end Sys2Proof.Machine

/-! # The scalar interface (45_scalar_interface.md)

XLI in the stream, where its two literal words may be missing; and the statement about it. -/

namespace Sys2Proof.Machine

open Sys2Proof.Claims

variable {s : State}

/-! ## XLI in the stream (30_encoding.md R99) -/

theorem encode_xli_append (d : XReg) (w1 w2 : Word) :
    encode (.xli d (w2 ++ w1)) = [firstWordR 0x06 d 0 0 0, w1, w2] := by
  obtain ⟨hlow, hhigh⟩ := literal_append_two w1 w2
  rw [encode, hlow, hhigh]
  exact congrArg (· :: _) (wordR_eq_firstWordR 0x06 d 0 0 0)

theorem decode_xli_first_word (d : XReg) (rest : List Word) :
    decode (firstWordR 0x06 d 0 0 0 :: rest) = formatXli (firstWordR 0x06 d 0 0 0) rest := by
  have hop : (0x06 : BitVec 6).toNat = 0x06 := rfl
  rw [← wordR_eq_firstWordR, hop, decode_wordR_cons (by decide), decodeOp]

/-- Accepting the command would take the two literal words that its row of the opcode map asks for. -/
theorem decode_xli_truncated (d : XReg) {rest : List Word} (h : rest.length < 2) :
    ∃ e, decode (firstWordR 0x06 d 0 0 0 :: rest) = .error e := by
  cases hdec : decode (firstWordR 0x06 d 0 0 0 :: rest) with
  | error e => exact ⟨e, rfl⟩
  | ok i =>
    rw [decode_xli_first_word] at hdec
    obtain ⟨-, hlen⟩ := formatXli_isOk_iff.mp ⟨i, hdec⟩
    omega

/-- A running block whose next words the decoder refuses, whatever its reason, enters IllegalCommand
(60_exceptions.md R282). -/
theorem step_faultState_of_fetch {w : Word} {rest : List Word} {e : DecodeError} (hf : faultOut s = false)
    (hfetch : fetchWords s = w :: rest) (hdec : decode (w :: rest) = .error e) :
    step s = .next (faultState s 1 0) := by
  have hrun : phase s = .running := phase_running_of_fetchWords hf hfetch
  have hillegal : decode (fetchWords s) = .error e := (congrArg decode hfetch).trans hdec
  rw [step_undecodable hrun hillegal, enterFault_eq_faultState]
  rfl

/-! ## The obligation -/

/-- Settles O33: XLI reads no register, so it always completes; with fewer than two words after it the decoder refuses
it, and the running block enters IllegalCommand. -/
theorem xliWritesLiteral : Obligations.XliWritesLiteral := by
  refine fun d w1 w2 s => ⟨encode_xli_append d w1 w2, givesScalar_of_exec rfl rfl, ?_⟩
  intro rest hlen hf hfetch
  obtain ⟨e, hdec⟩ := decode_xli_truncated d hlen
  exact step_faultState_of_fetch hf hfetch hdec

end Sys2Proof.Machine

/-! # Exceptions (60_exceptions.md)

Which words at `cix` no step can decode, what executing a command keeps when it does not fault, and what each
transaction of the host leaves of the status registers and gets from a running block; and the four statements about
them. -/

namespace Sys2Proof.Machine

open Sys2Proof.Claims

variable {s t u : State}

/-! ## A command that cannot be decoded (60_exceptions.md R282) -/

/-- The words that a running block decodes begin with its first word (10_state.md R40). -/
theorem fetchWords_eq_firstWord_cons (hc : s.cix < s.stream.length) :
    fetchWords s = firstWord s :: s.stream.drop (s.cix + 1) := by
  rw [fetchWords, firstWord, List.drop_eq_getElem_cons hc, List.getD_eq_getElem _ _ hc]

/-- Every reason for IllegalCommand is of one kind: no row of the opcode map both matches the first word and fits, with
its literal words, into the stream. -/
theorem step_illegal_of_no_row (hf : faultOut s = false) (hc : s.cix < s.stream.length)
    (hrow : ∀ r ∈ opcodeMap, firstWord s &&& r.mask = r.pattern → s.stream.length < s.cix + r.words) :
    step s = .next (faultState s 1 0) := by
  have hfetch := fetchWords_eq_firstWord_cons hc
  cases hdec : decode (firstWord s :: s.stream.drop (s.cix + 1)) with
  | error e => exact step_faultState_of_fetch hf hfetch hdec
  | ok i =>
    obtain ⟨hdecodes, -⟩ := decoderFollowsTheOpcodeMap
    obtain ⟨r, hr, hmatch, hfits⟩ := (hdecodes _ _).mp ⟨i, hdec⟩
    have hpast := hrow r hr hmatch
    rw [List.length_drop] at hfits
    omega

/-- The OP values without a command (30_encoding.md R98). -/
def UnassignedOp (op : Nat) : Prop := op ∈ [0x00, 0x07, 0x0E, 0x0F, 0x17, 0x23] ∨ 0x32 ≤ op

/-- No row of the opcode map is one of an unassigned OP. -/
theorem row_op_assigned : ∀ r ∈ opcodeMap, ¬ UnassignedOp (opField r.pattern) := by
  unfold UnassignedOp
  decide

theorem no_row_of_unassignedOp {w : Word} (h : UnassignedOp (opField w)) :
    ∀ r ∈ opcodeMap, w &&& r.mask ≠ r.pattern := by
  intro r hr hmatch
  obtain ⟨hop, -⟩ := (row_matches_iff hr w).mp hmatch
  rw [hop] at h
  exact row_op_assigned r hr h

/-! ## A command that does not fault (60_exceptions.md R291) -/

/-- What no write of a command reaches: `cix`, the status registers and the parameters. -/
theorem effect_keeps (h : Effect s (.ok u)) : u.cix = s.cix ∧ StatusKept s u ∧ ParametersKept s u := by
  cases h with
  | vector d val => exact ⟨rfl, ⟨rfl, rfl, rfl, rfl⟩, rfl, rfl⟩
  | scalar d val => exact ⟨rfl, ⟨rfl, rfl, rfl, rfl⟩, rfl, rfl⟩
  | store a val k hk => exact ⟨rfl, ⟨rfl, rfl, rfl, rfl⟩, rfl, rfl⟩

/-- With a fault recorded the block executes nothing. -/
theorem step_next_eq_self_of_fault (hf : faultOut s = true) (h : step s = .next t) : t = s := by
  rw [step_stopped (phase_stopped_iff.mpr hf)] at h
  cases h
  rfl

/-! ## The fault record and the host (60_exceptions.md R292) -/

theorem statusKept_refl (s : State) : StatusKept s s := ⟨rfl, rfl, rfl, rfl⟩

theorem statusKept_whenNotRunning {r r' : Reply} (hu : StatusKept s u) (h : whenNotRunning s u r = .next (t, r')) :
    StatusKept s t := by
  obtain ⟨-, rfl, -⟩ := whenNotRunning_next h
  exact hu

theorem statusKept_startRun (s : State) (c : List Word) : StatusKept s (startRun s c) := by
  cases hf : faultOut s with
  | true => rw [startRun_faulted hf]; exact statusKept_refl s
  | false => rw [startRun_ready hf]; exact ⟨rfl, rfl, rfl, rfl⟩

theorem statusKept_hostStep {tr : Transaction} {r : Reply} (hne : tr ≠ .reset) (h : hostStep tr s = .next (t, r)) :
    StatusKept s t := by
  cases tr with
  | reset => exact absurd rfl hne
  | readStatus k | faultOut => cases h; exact statusKept_refl s
  | readVReg q | readXReg q | readCix | readMemory a => exact statusKept_whenNotRunning (statusKept_refl s) h
  | writeVReg q val | writeXReg q val | writeMemory a b =>
    refine statusKept_whenNotRunning ?_ h
    exact ⟨rfl, rfl, rfl, rfl⟩
  | start c => exact statusKept_whenNotRunning (statusKept_startRun s c) h

/-! ## The host and a running block (60_exceptions.md R299) -/

theorem whenNotRunning_of_running (h : phase s = .running) (t : State) (r : Reply) :
    whenNotRunning s t r = .refused .hostWhileRunning := if_pos h

theorem hostStep_readStatus_of_running (h : phase s = .running) (k : Nat) :
    hostStep (.readStatus k) s = .next (s, .status 0) := by rw [hostStep_readStatus, statusPort_of_running h]

theorem hostStep_faultOut (s : State) : hostStep .faultOut s = .next (s, .line (faultOut s)) := rfl

theorem hostStep_reset (s : State) : hostStep .reset s = .next (resetBlock s, .done) := rfl

/-- What the host can get from a running block: RESET is done, the status port answers 0, and FAULT_OUT is 0. None of
the three replies depends on the block. -/
theorem hostStep_next_of_running {tr : Transaction} {r : Reply} (hp : phase s = .running)
    (h : hostStep tr s = .next (t, r)) :
    (tr = .reset ∧ r = .done) ∨ (∃ k, tr = .readStatus k ∧ r = .status 0) ∨ (tr = .faultOut ∧ r = .line false) := by
  obtain ⟨hf, -⟩ := phase_running_iff.mp hp
  cases tr with
  | reset => cases h; exact .inl ⟨rfl, rfl⟩
  | readStatus k =>
    rw [hostStep_readStatus_of_running hp] at h
    cases h
    exact .inr (.inl ⟨k, rfl, rfl⟩)
  | faultOut =>
    rw [hostStep_faultOut, hf] at h
    cases h
    exact .inr (.inr ⟨rfl, rfl⟩)
  | writeVReg _ _ | writeXReg _ _ | readVReg _ | readXReg _ | readCix | start _ | readMemory _ | writeMemory _ _ =>
    exact absurd hp (whenNotRunning_next h).1

/-- Every running block gives the host the reply that one of them gives. -/
theorem exists_hostStep_of_both_running {tr : Transaction} {r : Reply} (hs : phase s = .running)
    (hu : phase u = .running) (h : hostStep tr s = .next (t, r)) : ∃ t', hostStep tr u = .next (t', r) := by
  obtain ⟨hf, -⟩ := phase_running_iff.mp hu
  obtain ⟨rfl, rfl⟩ | ⟨k, rfl, rfl⟩ | ⟨rfl, rfl⟩ := hostStep_next_of_running hs h
  · exact ⟨resetBlock u, hostStep_reset u⟩
  · exact ⟨u, hostStep_readStatus_of_running hu k⟩
  · exact ⟨u, by rw [hostStep_faultOut, hf]⟩

/-! ## The obligations -/

/-- Settles O39: an unassigned OP matches no row, and of the rows only one can match, so that in each case no row
matches and fits into the stream. -/
theorem undecodableCommandIsIllegal : Obligations.UndecodableCommandIsIllegal := by
  intro s hf hc w
  have hnoRow : (∀ r ∈ opcodeMap, w &&& r.mask ≠ r.pattern) → step s = .next (faultState s 1 0) := fun hno =>
    step_illegal_of_no_row hf hc fun r hr hmatch => absurd hmatch (hno r hr)
  refine ⟨fun hop => hnoRow (no_row_of_unassignedOp hop), hnoRow, fun r hr hmatch hpast => ?_⟩
  obtain ⟨-, hunique⟩ := decoderFollowsTheOpcodeMap
  refine step_illegal_of_no_row hf hc fun r' hr' hmatch' => ?_
  rwa [hunique w r' hr' r hr hmatch' hmatch]

/-- Settles O40: the computation inside a command answers a state with its writes, or one fault that is entered in the
state the command began in. -/
theorem faultsArePrecise : Obligations.FaultsArePrecise := by
  refine ⟨fun i s => ?_, fun s t hf h => step_next_eq_self_of_fault hf h⟩
  obtain ⟨e, hexec, heff⟩ := exec_effect i s
  cases e with
  | ok u =>
    obtain ⟨hcix, hstatus, hparams⟩ := effect_keeps heff
    exact .inl ⟨advance u (encode i).length, hexec, by rw [advance_cix, hcix], hstatus, hparams⟩
  | error r =>
    obtain ⟨hlow, hhigh⟩ := causeCode_pos r.cause
    exact .inr ⟨causeCode r.cause, r.addr, hlow, hhigh, raises_of_exec hexec⟩

/-- Settles O41: a stopped block does not change, and of the host's transactions only RESET writes a status register. -/
theorem faultIsStickyUntilReset : Obligations.FaultIsStickyUntilReset := by
  refine ⟨fun s t hf h => ?_, fun tr s t r hne h => statusKept_hostStep hne h,
    fun s => ⟨resetBlock s, hostStep_reset s, rfl, rfl, rfl, rfl⟩⟩
  rw [step_next_eq_self_of_fault hf h]
  exact statusKept_refl s

/-- Settles O59: all but three transactions are made only when the block is not running, and the replies of the three
are the same in every running block. -/
theorem runningBlockShowsTheHostNothing : Obligations.RunningBlockShowsTheHostNothing := by
  intro s hf hc
  have hp : phase s = .running := phase_running_iff.mpr ⟨hf, hc⟩
  have hrefused := whenNotRunning_of_running hp
  refine ⟨fun _ => hrefused _ _, fun _ => hrefused _ _, hrefused _ _, fun _ => hrefused _ _, fun _ _ => hrefused _ _,
    fun _ _ => hrefused _ _, fun _ _ => hrefused _ _, fun _ => hrefused _ _, ?_, hostStep_readStatus_of_running hp, ?_⟩
  · have hline : faultOut s = false := hf
    rw [hostStep_faultOut, hline]
  · intro s' hf' hc' tr t r h
    exact exists_hostStep_of_both_running hp (phase_running_iff.mpr ⟨hf', hc'⟩) h

end Sys2Proof.Machine

/-! # Reset, host transactions and runs (70_reset_and_hazards.md)

What a step does in each phase of the block, how far one step and a whole run get, and what the host's transactions do
between runs; and the seven statements about them. -/

namespace Sys2Proof.Machine

open Sys2Proof.Claims

variable {s t : State}

/-! ## A step of a running block (70_reset_and_hazards.md R318, R319) -/

/-- Only VLIT and XLI have literal words (30_encoding.md R93). -/
theorem length_encode (i : Instr) :
    (encode i).length = 1 ∨ (encode i).length = 3 ∨ (encode i).length = 5 := by
  cases i with
  | vlit d imm => exact .inr (.inr rfl)
  | xli d imm => exact .inr (.inl rfl)
  | _ => exact .inl rfl

/-- A step of a running block enters a fault, or completes a command that lies within the stream. -/
theorem step_of_running (hp : phase s = .running) :
    ∃ t, step s = .next t ∧ (faultOut t = true ∨
      ∃ i, t.cix = s.cix + (encode i).length ∧ t.cix ≤ s.stream.length ∧ t.stream = s.stream) := by
  obtain ⟨-, hc⟩ := phase_running_iff.mp hp
  cases hdec : decode (fetchWords s) with
  | error e => exact ⟨_, step_undecodable hp hdec, .inl (faultOut_enterFault _ _)⟩
  | ok i =>
    obtain ⟨e, hexec, heff⟩ := exec_effect i s
    cases e with
    | error r => exact ⟨_, (step_running hp hdec).trans hexec, .inl (faultOut_enterFault _ _)⟩
    | ok u =>
      obtain ⟨hcix, -, hstream, -⟩ := effect_keeps heff
      have hadvance : (advance u (encode i).length).cix = s.cix + (encode i).length := by rw [advance_cix, hcix]
      refine ⟨_, (step_running hp hdec).trans hexec, .inr ⟨i, hadvance, ?_, hstream⟩⟩
      rw [hadvance]
      exact cix_add_length_le hc.le hdec

/-! ## A run stops (70_reset_and_hazards.md R319, R321) -/

/-- With `cix` in [0, L], a block that does not run has stopped. -/
theorem stopped_of_not_running (hc : s.cix ≤ s.stream.length) (hp : phase s ≠ .running) : Stopped s := by
  cases hf : faultOut s with
  | true => exact .inl hf
  | false =>
    have hend : ¬ s.cix < s.stream.length := fun hlt => hp (phase_running_iff.mpr ⟨hf, hlt⟩)
    exact .inr ⟨hf, by omega⟩

theorem run_zero (s : State) : Host.Core.run Sys2Proof.core 0 s = .next s := rfl

/-- The words that are left of the stream bound the steps that are left of the run, because every completed command
takes up at least one word. -/
theorem exists_run_stopped {n : Nat} (hc : s.cix ≤ s.stream.length) (hn : s.stream.length ≤ s.cix + n) :
    ∃ k t, k ≤ n ∧ Host.Core.run Sys2Proof.core k s = .next t ∧ Stopped t := by
  induction n generalizing s with
  | zero =>
    have hp : phase s ≠ .running := not_running_of_stopped (.inr hn)
    exact ⟨0, s, le_rfl, run_zero s, stopped_of_not_running hc hp⟩
  | succ n ih =>
    by_cases hp : phase s = .running
    · obtain ⟨t, hstep, hfault | ⟨i, hcix, hle, hstream⟩⟩ := step_of_running hp
      · exact ⟨1, t, Nat.le_add_left 1 n, run_succ hstep, .inl hfault⟩
      · have hlength := length_encode i
        obtain ⟨k, u, hk, hrun, hstop⟩ := ih (s := t) (by rw [hstream]; exact hle) (by rw [hstream]; omega)
        exact ⟨k + 1, u, Nat.succ_le_succ hk, (run_succ hstep).trans hrun, hstop⟩
    · exact ⟨0, s, Nat.zero_le _, run_zero s, stopped_of_not_running hc hp⟩

/-! ## Transactions between runs (70_reset_and_hazards.md R316, R317) -/

theorem whenNotRunning_of_not_running (h : phase s ≠ .running) (t : State) (r : Reply) :
    whenNotRunning s t r = .next (t, r) := if_neg h

theorem onlyVector_setV (s : State) (r : VReg) (val : Vec) : OnlyVector r s (setV s r val) :=
  ⟨fun _ hr => vreg_setV_ne s val hr, fun _ => rfl, ⟨rfl, rfl, rfl, rfl⟩, fun _ => rfl, rfl, rfl⟩

theorem onlyScalar_setX (s : State) (r : XReg) (val : Scalar) : OnlyScalar r s (setX s r val) :=
  ⟨fun _ => rfl, fun _ hr => xreg_setX_ne s val hr, ⟨rfl, rfl, rfl, rfl⟩, fun _ => rfl, rfl, rfl⟩

theorem hostStep_readVReg (h : phase s ≠ .running) (r : VReg) :
    hostStep (.readVReg r) s = .next (s, .vector (vreg s r)) := whenNotRunning_of_not_running h _ _

theorem hostStep_readXReg (h : phase s ≠ .running) (r : XReg) :
    hostStep (.readXReg r) s = .next (s, .scalar (xreg s r)) := whenNotRunning_of_not_running h _ _

theorem hostStep_readMemory (h : phase s ≠ .running) (a : Scalar) :
    hostStep (.readMemory a) s = .next (s, .byte (Memory.read s.mem a.toNat)) := whenNotRunning_of_not_running h _ _

/-- A byte that the host wrote, and every other byte as before. -/
theorem read_pokeMemory (hw : Memory.wf s.mem = true) (a : Scalar) (b : Lane) (c : Nat) :
    Memory.read (pokeMemory s a b).mem c = if c = a.toNat then b else Memory.read s.mem c :=
  Memory.read_write hw a.toNat b c

/-- No preload decides whether the block runs: the phase depends on STATUS, `cix` and the stream alone. -/
theorem phase_setV (s : State) (r : VReg) (val : Vec) : phase (setV s r val) = phase s := rfl

theorem phase_setX (s : State) (r : XReg) (val : Scalar) : phase (setX s r val) = phase s := rfl

theorem phase_pokeMemory (s : State) (a : Scalar) (b : Lane) : phase (pokeMemory s a b) = phase s := rfl

theorem faultOut_resetBlock (s : State) : faultOut (resetBlock s) = false := by simp [faultOut]

/-! ## The obligations -/

/-- Settles O45, phase by phase: the invariant keeps `cix` within the stream, which is where a step always answers. -/
theorem stepAlwaysAnswersNext : Obligations.StepAlwaysAnswersNext := by
  intro s ⟨_, hc, _⟩
  cases hp : phase s with
  | running =>
    obtain ⟨t, hstep, -⟩ := step_of_running hp
    exact ⟨t, hstep⟩
  | idle => exact ⟨s, step_idle hp⟩
  | stoppedByFault => exact ⟨s, step_stopped hp⟩
  | outside =>
    obtain ⟨-, hlt⟩ := phase_outside_iff.mp hp
    omega

/-- Settles O46: a command has 1, 3 or 5 words, and the run is followed by induction on the words left to it. -/
theorem runsTerminate : Obligations.RunsTerminate := by
  refine ⟨fun s hf hc => ?_, fun s h0 => ?_⟩
  · obtain ⟨t, hstep, hfault | ⟨i, hcix, -, -⟩⟩ := step_of_running (phase_running_iff.mpr ⟨hf, hc⟩)
    · exact ⟨t, hstep, .inl hfault⟩
    · have hlength := length_encode i
      exact ⟨t, hstep, .inr (by omega)⟩
  · obtain ⟨k, t, hk, hrun, hfault | ⟨-, hend⟩⟩ :=
      exists_run_stopped (n := s.stream.length) (by omega) (Nat.le_add_left _ s.cix)
    · exact ⟨k, t, hk, hrun, .inl hfault⟩
    · exact ⟨k, t, hk, hrun, .inr hend⟩

/-- Settles O55: with FAULT = 0 the start writes `cix` and the stream only; with FAULT = 1 it writes nothing, and the
block stays stopped. -/
theorem startBeginsARun : Obligations.StartBeginsARun := by
  refine ⟨fun s c hf hc => ?_, fun s c hf t r h => ?_⟩
  · have hstart : hostStep (.start c) s = .next ({ s with cix := 0, stream := c }, .done) := by
      rw [← startRun_ready hf]
      exact whenNotRunning_of_not_running (not_running_of_stopped (.inr hc)) _ _
    refine ⟨_, hstart, rfl, rfl, fun _ => rfl, fun _ => rfl, fun _ => rfl, ⟨rfl, rfl, rfl, rfl⟩, rfl, ?_⟩
    rintro rfl
    rfl
  · obtain ⟨-, rfl, -⟩ := whenNotRunning_next h
    rw [startRun_faulted hf]
    exact ⟨rfl, fun u hstep => step_next_eq_self_of_fault hf hstep⟩

/-- Settles O56: each transaction is made because the block is not running, and a preload leaves it so, so that the
readback is made too. -/
theorem preloadAndReadback : Obligations.PreloadAndReadback := by
  intro s hstopped
  have hp : phase s ≠ .running := not_running_of_stopped hstopped
  refine ⟨fun r val => ?_, fun r val => ?_, hostStep_readVReg hp, hostStep_readXReg hp,
    whenNotRunning_of_not_running hp _ _, fun a b hw => ?_⟩
  · have hread := hostStep_readVReg (by rwa [phase_setV s r val]) r
    rw [vreg_setV_self] at hread
    exact ⟨setV s r val, whenNotRunning_of_not_running hp _ _, vreg_setV_self s r val, onlyVector_setV s r val,
      rfl, hread⟩
  · have hread := hostStep_readXReg (by rwa [phase_setX s r val]) r
    rw [xreg_setX_self] at hread
    exact ⟨setX s r val, whenNotRunning_of_not_running hp _ _, xreg_setX_self s r val, onlyScalar_setX s r val,
      rfl, hread⟩
  · have hread := hostStep_readMemory (by rwa [phase_pokeMemory s a b]) a
    rw [read_pokeMemory hw, if_pos rfl] at hread
    exact ⟨pokeMemory s a b, whenNotRunning_of_not_running hp _ _, read_pokeMemory hw a b, fun _ => rfl, fun _ => rfl,
      rfl, ⟨rfl, rfl, rfl, rfl⟩, ⟨rfl, rfl⟩, hread⟩

/-- Settles O38: FAULT = 0 and `cix` < L is what running means. -/
theorem stepRunsTheDecodedCommand : Obligations.StepRunsTheDecodedCommand :=
  fun _ _ hf hc hdec => step_running (phase_running_iff.mpr ⟨hf, hc⟩) hdec

/-- Settles O54, field by field of `resetBlock`. -/
theorem resetClearsTheBlock : Obligations.ResetClearsTheBlock := by
  intro s
  refine ⟨resetBlock s, hostStep_reset s, vreg_resetBlock s, xreg_resetBlock s, resetBlock_cix s, resetBlock_status s,
    resetBlock_faultCix s, resetBlock_faultAddr s, resetBlock_faultWord s, fun _ => rfl, resetBlock_platform s,
    ?_, ?_⟩
  · rw [hostStep_faultOut, faultOut_resetBlock]
  · rw [hostStep_reset, resetBlock_reset]

/-- Settles O58: FAULT = 0 and `cix` = L is what idle means. -/
theorem completedRunDoesNothing : Obligations.CompletedRunDoesNothing :=
  fun _ hf hc => step_idle (phase_idle_iff.mpr ⟨hf, hc⟩)

end Sys2Proof.Machine
